-- ==== Sys2Proof/Word.lean ====
section
/-!
DEFINITION. The word types of the OTP hash block: bytes, 32-bit register words (00_scope.md R8, R10) and the
64-bit counter (10_state.md R25).
-/

namespace Sys2Proof

/-- One byte: a key byte, a digest byte, an 8-bit character code. -/
abbrev Byte := BitVec 8

/-- A 32-bit register word, which is also a command word (R8: BUS_WIDTH and CMD_WIDTH are 32). -/
abbrev Word := BitVec 32

/-- The value of the counter register CTR (R8: CTR_WIDTH is 64). -/
abbrev Counter := BitVec 64

end Sys2Proof
end

