-- ==== Sys2Proof/Syntax.lean ====
section
/-!
DEFINITION. The command set: one constructor per row of spec/opcode_table.json (30_encoding.md R98), its operands as
30_encoding.md R97 forms them. Every operand type holds exactly the values its field admits.
-/

namespace Sys2Proof

/-- A command of the block. -/
inductive Instr where
  /-- NOP (40_control.md R125). -/
  | nop
  /-- SRST: soft reset (R126). -/
  | srst
  /-- ERR_CLR: clear the sticky error (R127). -/
  | errClr
  /-- KEY_CLR: empty the key buffer (42_key_counter.md R200). -/
  | keyClr
  /-- KEY_BYTE byte: append one secret byte (R201). -/
  | keyByte (byte : Byte)
  /-- CTR_LD lane, imm16: load one 16-bit lane of the counter (R203). -/
  | ctrLd (lane : BitVec 2) (imm : BitVec 16)
  /-- CTR_ADDI simm16: add a signed constant to the counter (R204). -/
  | ctrAddi (imm : BitVec 16)
  /-- HMAC: the keyed digest of the counter (43_hmac_sha1.md R241). -/
  | hmac
  /-- DTRUNC: truncate the held digest (44_truncation.md R275). -/
  | dtrunc
  /-- HOTP: the code for the loaded key and counter (R276). -/
  | hotp
  /-- B32E_CLR: start a new encoding (41_base32.md R152). -/
  | b32eClr
  /-- B32E_BYTE byte: feed one input byte to the encoder (R153). -/
  | b32eByte (byte : Byte)
  /-- B32E_FIN: flush the encoder (R154). -/
  | b32eFin
  /-- B32D_CLR: start a new decoding (R161). -/
  | b32dClr
  /-- B32D_CHAR char, or B32D_CHAR.K char when `k` is true: feed one character to the decoder (R162). -/
  | b32dChar (k : Bool) (char : Byte)
  /-- B32D_FIN: end a decoding (R164). -/
  | b32dFin
deriving DecidableEq, Repr

end Sys2Proof
end

