-- ==== Sys2Proof/WellFormed.lean ====
section
/-!
DEFINITION. Assembly lines of one command (30_encoding.md R102), whose operands are plain numbers, and the check of
their ranges. An `Instr` needs no check: its operand types admit exactly the encodable values. An out-of-range operand
is an assembly error, not an encoding (R102).
-/

namespace Sys2Proof

/-- One command line of assembly: a mnemonic with its operands as numbers (R102). -/
inductive AsmLine where
  | nop | srst | errClr | keyClr
  | keyByte (byte : Nat)
  | ctrLd (lane imm16 : Nat)
  | ctrAddi (simm16 : Int)
  | hmac | dtrunc | hotp
  | b32eClr
  | b32eByte (byte : Nat)
  | b32eFin | b32dClr
  | b32dChar (k : Bool) (char : Nat)
  | b32dFin
deriving DecidableEq, Repr

/-- R102: `byte` and `char` are 0 to 255, `lane` 0 to 3, `imm16` 0 to 65535, `simm16` −32768 to 32767. -/
def AsmLine.wf : AsmLine → Bool
  | .nop => true
  | .srst => true
  | .errClr => true
  | .keyClr => true
  | .keyByte byte => decide (byte ≤ 255)
  | .ctrLd lane imm16 => decide (lane ≤ 3) && decide (imm16 ≤ 65535)
  | .ctrAddi simm16 => decide (-32768 ≤ simm16) && decide (simm16 ≤ 32767)
  | .hmac => true
  | .dtrunc => true
  | .hotp => true
  | .b32eClr => true
  | .b32eByte byte => decide (byte ≤ 255)
  | .b32eFin => true
  | .b32dClr => true
  | .b32dChar _ char => decide (char ≤ 255)
  | .b32dFin => true

/-- The command line of a command: each operand as the number the assembler reads. -/
def Instr.asmLine : Instr → AsmLine
  | .nop => .nop
  | .srst => .srst
  | .errClr => .errClr
  | .keyClr => .keyClr
  | .keyByte byte => .keyByte byte.toNat
  | .ctrLd lane imm => .ctrLd lane.toNat imm.toNat
  | .ctrAddi imm => .ctrAddi imm.toInt
  | .hmac => .hmac
  | .dtrunc => .dtrunc
  | .hotp => .hotp
  | .b32eClr => .b32eClr
  | .b32eByte byte => .b32eByte byte.toNat
  | .b32eFin => .b32eFin
  | .b32dClr => .b32dClr
  | .b32dChar k char => .b32dChar k char.toNat
  | .b32dFin => .b32dFin

/-- A command is well formed when its command line is. Every `Instr` is: its operand types hold the ranges. -/
def Instr.wf (i : Instr) : Bool := i.asmLine.wf

end Sys2Proof
end

