-- ==== Sys2Proof/Decode.lean ====
section
/-!
DEFINITION. Command encoding (30_encoding.md): the operand fields of R97, the opcode map of R98, the total decoder of
R99 and R100, and the encoder, written from the formats of R92–R96.
-/

namespace Sys2Proof

/-! ## Fields (R91, R97) -/

/-- OP = w[31:24] (R91). -/
def opField (w : Word) : BitVec 8 := w.extractLsb' 24 8

/-- BYTE or CHAR = w[7:0] (R97). -/
def byteField (w : Word) : Byte := w.extractLsb' 0 8

/-- K = w[8] (R97). -/
def kField (w : Word) : Bool := w.getLsbD 8

/-- LANE = w[17:16] (R97). -/
def laneField (w : Word) : BitVec 2 := w.extractLsb' 16 2

/-- IMM16 = w[15:0] (R97). -/
def immField (w : Word) : BitVec 16 := w.extractLsb' 0 16

/-! ## The opcode map (R98) -/

/-- A row of the table of R98: a word `w` selects the row exactly when `w & mask = pattern`. -/
structure OpRow where
  mnemonic : String
  pattern : Word
  mask : Word
  build : Word → Instr

/-- The complete opcode map, in the table's order (R98). -/
def opTable : List OpRow := [
  ⟨"NOP",       0x00000000, 0xFFFFFFFF, fun _ => .nop⟩,
  ⟨"SRST",      0x01000000, 0xFFFFFFFF, fun _ => .srst⟩,
  ⟨"ERR_CLR",   0x02000000, 0xFFFFFFFF, fun _ => .errClr⟩,
  ⟨"KEY_CLR",   0x10000000, 0xFFFFFFFF, fun _ => .keyClr⟩,
  ⟨"KEY_BYTE",  0x11000000, 0xFFFFFF00, fun w => .keyByte (byteField w)⟩,
  ⟨"CTR_LD",    0x18000000, 0xFFFC0000, fun w => .ctrLd (laneField w) (immField w)⟩,
  ⟨"CTR_ADDI",  0x19000000, 0xFFFF0000, fun w => .ctrAddi (immField w)⟩,
  ⟨"HMAC",      0x20000000, 0xFFFFFFFF, fun _ => .hmac⟩,
  ⟨"DTRUNC",    0x21000000, 0xFFFFFFFF, fun _ => .dtrunc⟩,
  ⟨"HOTP",      0x22000000, 0xFFFFFFFF, fun _ => .hotp⟩,
  ⟨"B32E_CLR",  0x30000000, 0xFFFFFFFF, fun _ => .b32eClr⟩,
  ⟨"B32E_BYTE", 0x31000000, 0xFFFFFF00, fun w => .b32eByte (byteField w)⟩,
  ⟨"B32E_FIN",  0x32000000, 0xFFFFFFFF, fun _ => .b32eFin⟩,
  ⟨"B32D_CLR",  0x38000000, 0xFFFFFFFF, fun _ => .b32dClr⟩,
  ⟨"B32D_CHAR", 0x39000000, 0xFFFFFE00, fun w => .b32dChar (kField w) (byteField w)⟩,
  ⟨"B32D_FIN",  0x3A000000, 0xFFFFFFFF, fun _ => .b32dFin⟩]

/-- Does the word select the row (R98)? -/
def OpRow.selects (r : OpRow) (w : Word) : Bool := w &&& r.mask == r.pattern

/-- Why a word is ILLEGAL: the two cases of R100. -/
inductive Illegal where
  /-- R100(a): OP is one of the 240 unassigned values. -/
  | unassignedOp
  /-- R100(b): OP is assigned, and a bit that must be 0 in its format is 1. -/
  | mustBeZeroBit
deriving DecidableEq, Repr

/-- Is the opcode one of the 16 assigned values? -/
def opAssigned (op : BitVec 8) : Bool := opTable.any fun r => opField r.pattern == op

/-- The case of R100 that a word without a row falls under. -/
def illegalCase (w : Word) : Illegal :=
  if opAssigned (opField w) then .mustBeZeroBit else .unassignedOp

/-- `decode(w)` of R99, total on every word: the first row the word selects, or ILLEGAL with its reason. -/
def decode (w : Word) : Except Illegal Instr :=
  match opTable.find? (fun r => r.selects w) with
  | some r => .ok (r.build w)
  | none => .error (illegalCase w)

/-- The only SRST encoding (R101). -/
def srstWord : Word := 0x01000000

/-! ## The encoder (R92–R96) -/

/-- Format N (R92): OP, then 24 zero bits. -/
def formatN (op : BitVec 8) : Word := op ++ 0#24

/-- Format B (R93): OP, 16 zero bits, BYTE. -/
def formatB (op : BitVec 8) (byte : Byte) : Word := op ++ 0#16 ++ byte

/-- Format D (R94): OP, 15 zero bits, K, CHAR. -/
def formatD (op : BitVec 8) (k : Bool) (char : Byte) : Word := op ++ 0#15 ++ BitVec.ofBool k ++ char

/-- Format H (R95): OP, 6 zero bits, LANE, IMM16. -/
def formatH (op : BitVec 8) (lane : BitVec 2) (imm : BitVec 16) : Word := op ++ 0#6 ++ lane ++ imm

/-- Format I (R96): OP, 8 zero bits, IMM16. -/
def formatI (op : BitVec 8) (imm : BitVec 16) : Word := op ++ 0#8 ++ imm

/-- The opcode of a command (R98). -/
def Instr.op : Instr → BitVec 8
  | .nop => 0x00
  | .srst => 0x01
  | .errClr => 0x02
  | .keyClr => 0x10
  | .keyByte _ => 0x11
  | .ctrLd _ _ => 0x18
  | .ctrAddi _ => 0x19
  | .hmac => 0x20
  | .dtrunc => 0x21
  | .hotp => 0x22
  | .b32eClr => 0x30
  | .b32eByte _ => 0x31
  | .b32eFin => 0x32
  | .b32dClr => 0x38
  | .b32dChar _ _ => 0x39
  | .b32dFin => 0x3A

/-- The command word of a command. -/
def encode (i : Instr) : Word :=
  match i with
  | .nop => formatN i.op
  | .srst => formatN i.op
  | .errClr => formatN i.op
  | .keyClr => formatN i.op
  | .keyByte byte => formatB i.op byte
  | .ctrLd lane imm => formatH i.op lane imm
  | .ctrAddi imm => formatI i.op imm
  | .hmac => formatN i.op
  | .dtrunc => formatN i.op
  | .hotp => formatN i.op
  | .b32eClr => formatN i.op
  | .b32eByte byte => formatB i.op byte
  | .b32eFin => formatN i.op
  | .b32dClr => formatN i.op
  | .b32dChar k char => formatD i.op k char
  | .b32dFin => formatN i.op

/-! ## Assembly and the host's table word -/

/-- The command a well-formed command line stands for; an out-of-range operand is an assembly error (R102). -/
def AsmLine.assemble (l : AsmLine) : Option Instr :=
  if l.wf then
    some (match l with
      | .nop => .nop
      | .srst => .srst
      | .errClr => .errClr
      | .keyClr => .keyClr
      | .keyByte byte => .keyByte (BitVec.ofNat 8 byte)
      | .ctrLd lane imm16 => .ctrLd (BitVec.ofNat 2 lane) (BitVec.ofNat 16 imm16)
      | .ctrAddi simm16 => .ctrAddi (BitVec.ofInt 16 simm16)
      | .hmac => .hmac
      | .dtrunc => .dtrunc
      | .hotp => .hotp
      | .b32eClr => .b32eClr
      | .b32eByte byte => .b32eByte (BitVec.ofNat 8 byte)
      | .b32eFin => .b32eFin
      | .b32dClr => .b32dClr
      | .b32dChar k char => .b32dChar k (BitVec.ofNat 8 char)
      | .b32dFin => .b32dFin)
  else none

/-- The command word the host's table word stands for: its low `nbits` bits, every bit above them 0. A command is one
32-bit word, delivered whole (R90), so no byte order enters. -/
def tableWord (nbits w : Nat) : Word := BitVec.ofNat 32 (w % 2 ^ nbits)

/-- The command the decoder reads from the word whose bits are `w` (bit 0 the least significant), `none` where it is
ILLEGAL. -/
def decodeTableWord (nbits w : Nat) : Option Instr :=
  match decode (tableWord nbits w) with
  | .ok i => some i
  | .error _ => none

end Sys2Proof
end

