-- ==== Sys2Proof/Config.lean ====
section
/-!
DEFINITION. The parameters of the block: the fixed ones of 00_scope.md R8, and the open ones of R9 and
92_eei_decisions.md §2 as constants without a body. LAT is not here: it is the schedule held in the state
(notes/assumptions/1.md).
-/

namespace Sys2Proof.Config

/-- KEY_MAX of R8: the size of the key buffer in bytes. -/
abbrev keyMax : Nat := 64

/-- DIGITS of R8: the width of a code in characters. -/
abbrev digits : Nat := 6

/-- 10^6, the modulus of the reduction (44_truncation.md R272). -/
abbrev codeModulus : Nat := 1000000

/-- The value of the ID register (R8, R41): ASCII "OTP1". -/
def idValue : Word := 0x4F545031

/-- The size of the register window in bytes (20_memory.md R60). -/
abbrev windowBytes : Nat := 256

/-- BASE (R60): the host bus address of the window, chosen by the platform. No rule depends on it. -/
opaque base : Nat

/-- BUSY_READ (R9, R318): the value of the n-th draw, a read of any register but CTRL, STATUS and ID while BUSY = 1.
A free value: nothing constrains it (notes/assumptions/2.md). -/
opaque busyRead : Nat → Word

/-- IRQ_ROUTE (60_exceptions.md R313): the input of the host's interrupt controller that IRQ drives. -/
opaque irqInput : Nat

/-- IRQ_ROUTE (R313): the priority of that input in the host's interrupt controller. -/
opaque irqPriority : Nat

end Sys2Proof.Config
end

