-- ==== Sys2Proof/Machine/State.lean ====
section
/-!
DEFINITION. The state of the block: every element of the table of 10_state.md R22, as plain data, and beside it the
model's own record of what its environment does (the schedule of turns, the reset input, the draw counter and the
values the port has returned). Reset values: R44.
-/

namespace Sys2Proof.Machine

/-- The error codes 1 to 6 of 60_exceptions.md R300. Code 0, NONE, is the absence of one; 7–15 are never written. -/
inductive Error where
  /-- code 1: the command word decodes to ILLEGAL -/
  | illegalCmd
  /-- code 2: KEYLEN = 0 at HMAC or HOTP -/
  | invalidSecret
  /-- code 3: a character that the strict decoding policy rejects -/
  | invalidEncoding
  /-- code 4: a byte appended when KEYLEN = 64 -/
  | keyOverflow
  /-- code 5: DTRUNC with DV = 0 -/
  | noDigest
  /-- code 6: a CMD write other than SRST while BUSY = 1 -/
  | cmdOverrun
deriving DecidableEq, Repr

/-- PEND when it is full (R40): the accepted word, and CTRL.STRICT as it stood at acceptance. -/
structure Pending where
  word   : Word
  strict : Bool
deriving DecidableEq, Repr

/-- The width of a host access; the block takes only `word` (20_memory.md R66). -/
inductive Width where
  | byte | half | word
deriving DecidableEq, Repr

/-- What a host access does: read, or write a value. -/
inductive Direction where
  | read
  | write (v : Word)
deriving DecidableEq, Repr

/-- One access of the host at the port, by its byte offset in the window (20_memory.md R60, R62, R63). -/
structure Access where
  off   : BitVec 8
  width : Width
  lanes : BitVec 4
  dir   : Direction
deriving DecidableEq, Repr

/-- A turn of one of the agents of R20: a host access, the engine's turn to complete, or the environment driving the
reset input (70_reset_and_hazards.md R340) to a level. -/
inductive Turn where
  | host (a : Access)
  | engine
  | resetInput (asserted : Bool)
deriving DecidableEq, Repr

/-- The model's own record of the block's environment. -/
structure Bus where
  /-- the turns the agents take next, in order; when none is left the engine has the turn (log 1) -/
  turns    : List Turn
  /-- the level of the reset input (log 4) -/
  resetPin : Bool
  /-- how many draws reads have made so far (log 2) -/
  draws    : Nat
  /-- the (offset, value) pairs the port has returned to the host, newest first (log 3) -/
  readLog  : List (BitVec 8 × Word)
deriving DecidableEq, Repr

/-- The architectural state of R22, under the table's names, and the model's own `bus`. -/
structure State where
  key      : Vector Byte 64
  keylen   : Fin 65
  ctr      : Counter
  digest   : Vector Byte 20
  dv       : Bool
  offset   : BitVec 4
  trunc    : BitVec 31
  codeNum  : Fin 1000000
  code     : Vector Byte 6
  cv       : Bool
  eacc     : BitVec 13
  ecnt     : Fin 5
  eoutC0   : Byte
  eoutC1   : Byte
  eoutN    : Fin 3
  dacc     : BitVec 12
  dcnt     : Fin 8
  dpad     : Bool
  doutByte : Byte
  doutV    : Bool
  doutSkip : Bool
  doutPadc : Bool
  doutDrop : Fin 8
  strict   : Bool
  ieDone   : Bool
  ieErr    : Bool
  busy     : Bool
  done     : Bool
  err      : Bool
  errcode  : Option Error
  pend     : Option Pending
  bus      : Bus
deriving DecidableEq, Repr

/-- The block has no fault: its errors are ordinary state (60_exceptions.md R310, R316), and no behaviour of it stops
the machine (93_implementation_defined.md §1). The type has no constructor, so no step faults (log 13). -/
inductive Fault
deriving DecidableEq, Repr

/-- Why the model has no meaning for what is asked of it. Each is raised by a host access that 20_memory.md R66 says the
model refuses (log 9); refusing is safe, since nothing can be proved of what such an access does. -/
inductive Refusal where
  /-- an instruction whose meaning is not written: raised by no arm of exec; safe -/
  | notModelled (mnemonic : String)
  /-- an 8- or 16-bit access, raised by hostAccess; safe -/
  | narrowAccess
  /-- a 32-bit access whose offset is no multiple of 4, raised by hostAccess; safe -/
  | misalignedAccess
  /-- an aligned 32-bit access without all four byte lanes, raised by hostAccess; safe -/
  | partialByteEnables
deriving DecidableEq, Repr

/-- The state right after hardware reset (R44, R340), with an environment that has done nothing yet: no turn is
scheduled, the reset input is released, no draw was made and nothing was read (logs 1 to 4). -/
def State.reset : State where
  key      := Vector.replicate 64 0
  keylen   := 0
  ctr      := 0
  digest   := Vector.replicate 20 0
  dv       := false
  offset   := 0
  trunc    := 0
  codeNum  := 0
  code     := Vector.replicate 6 0
  cv       := false
  eacc     := 0
  ecnt     := 0
  eoutC0   := 0
  eoutC1   := 0
  eoutN    := 0
  dacc     := 0
  dcnt     := 0
  dpad     := false
  doutByte := 0
  doutV    := false
  doutSkip := false
  doutPadc := false
  doutDrop := 0
  strict   := false
  ieDone   := false
  ieErr    := false
  busy     := false
  done     := false
  err      := false
  errcode  := none
  pend     := none
  bus      := { turns := [], resetPin := false, draws := 0, readLog := [] }

/-- What a step, an instruction or an access answers. -/
abbrev Answer := Host.Outcome State Fault Refusal

end Sys2Proof.Machine
end

