-- ==== Sys2Proof/Machine/Operands.lean ====
section
/-!
DEFINITION. Byte order, operand extension and lane placement: the shared bit operations of the commands
(00_scope.md R10 and R11, 20_memory.md R68–R72, 30_encoding.md R97).
-/

namespace Sys2Proof.Machine

/-! ## Byte order -/

/-- Byte `i` of a byte string, 0 past its end; every use stays inside the string. -/
def byteAt (A : List Byte) (i : Nat) : Byte := A.getD i 0

/-- `be32(A, i)` of R11: four bytes from `i` on, the first the most significant. -/
def be32 (A : List Byte) (i : Nat) : Word :=
  ((byteAt A i).setWidth 32 <<< 24) ||| ((byteAt A (i + 1)).setWidth 32 <<< 16)
    ||| ((byteAt A (i + 2)).setWidth 32 <<< 8) ||| (byteAt A (i + 3)).setWidth 32

/-- The four bytes of a word, the most significant first: the inverse of `be32` (R71). -/
def wordBytes (w : Word) : List Byte :=
  [w.extractLsb' 24 8, w.extractLsb' 16 8, w.extractLsb' 8 8, w.extractLsb' 0 8]

/-- `be64(x)` of R11: byte `k` is `x[63-8k:56-8k]`; the message bytes of the counter (20_memory.md R68). -/
def be64 (x : BitVec 64) : List Byte :=
  (List.range 8).map fun k => x.extractLsb' (56 - 8 * k) 8

/-! ## Operands of the counter commands (R97) -/

/-- `sext_64(w[15:0])`: the operand of CTR_ADDI. -/
def sext64 (imm : BitVec 16) : Counter := imm.signExtend 64

/-- The lowest CTR bit of a lane: `16·LANE`. -/
def laneLow (lane : BitVec 2) : Nat := 16 * lane.toNat

/-- The counter with one 16-bit lane replaced (42_key_counter.md R203). -/
def replaceLane (ctr : Counter) (lane : BitVec 2) (imm : BitVec 16) : Counter :=
  (ctr &&& ~~~(0xFFFF#64 <<< laneLow lane)) ||| (imm.setWidth 64 <<< laneLow lane)

/-! ## Accumulators -/

/-- `(1 << n) - 1` at width `w`: keeps the `n` valid bits of an accumulator (decision D27). -/
def lowMask (w n : Nat) : BitVec w := (1#w <<< n) - 1#w

/-- The bit of a Boolean in a register word. -/
def flagBit (b : Bool) (i : Nat) : Word := (BitVec.ofBool b).setWidth 32 <<< i

end Sys2Proof.Machine
end

