-- ==== Sys2Proof/Machine/Flags.lean ====
section
/-!
DEFINITION. The flags of the block (10_state.md R43): the STATUS and CTRL registers as words (R36, R37), the interrupt
output (R42), the error codes (60_exceptions.md R300), and every change of a flag by a host write or by the recording
and clearing of an error.
-/

namespace Sys2Proof.Machine

/-! ## Error codes and the interrupt -/

/-- The code of an error (R300). -/
def Error.code : Error → BitVec 4
  | .illegalCmd => 1
  | .invalidSecret => 2
  | .invalidEncoding => 3
  | .keyOverflow => 4
  | .noDigest => 5
  | .cmdOverrun => 6

/-- STATUS.ERRCODE as its four bits: 0, NONE, when no error is recorded (R300). -/
def errcodeBits : Option Error → BitVec 4
  | none => 0
  | some e => e.code

/-- The level of the interrupt output (R42). -/
def State.irq (s : State) : Bool := (s.ieDone && s.done) || (s.ieErr && s.err)

/-- The level the block drives onto input `n` of the host's interrupt controller at priority `p`: IRQ on the one input
IRQ_ROUTE names, nothing elsewhere (R313). -/
def State.irqAt (s : State) (n p : Nat) : Bool :=
  decide (n = Config.irqInput) && decide (p = Config.irqPriority) && s.irq

/-! ## Register words -/

/-- The value a read of CTRL returns (R36). -/
def ctrlWord (s : State) : Word := flagBit s.strict 0 ||| flagBit s.ieDone 1 ||| flagBit s.ieErr 2

/-- The value a read of STATUS returns (R37). -/
def statusWord (s : State) : Word :=
  flagBit s.busy 0 ||| flagBit s.done 1 ||| flagBit s.err 2 ||| ((errcodeBits s.errcode).setWidth 32 <<< 4)
    ||| flagBit s.dv 8 ||| flagBit s.cv 9 ||| flagBit s.irq 10

/-! ## Changes of flags -/

/-- A host write to CTRL: bits 2:0 are taken, bits 31:3 ignored (R36, 20_memory.md R63). -/
def writeCtrl (v : Word) (s : State) : State :=
  { s with strict := v.getLsbD 0, ieDone := v.getLsbD 1, ieErr := v.getLsbD 2 }

/-- A host write to STATUS: bit 1 set clears DONE, every other bit is ignored (R38). -/
def writeStatus (v : Word) (s : State) : State :=
  if v.getLsbD 1 then { s with done := false } else s

/-- An error occurs: it is recorded when none is (60_exceptions.md R301). -/
def recordError (e : Error) (s : State) : State :=
  if s.err then s else { s with err := true, errcode := some e }

/-- The error is cleared: the body of ERR_CLR (40_control.md R127). -/
def clearError (s : State) : State := { s with err := false, errcode := none }

end Sys2Proof.Machine
end

