-- ==== Sys2Proof/Machine/Ops.lean ====
section
/-!
DEFINITION. The shared operations of the commands and of the port: reset, acceptance and completion with the entry into
the error state and the return from it (40_control.md R120–R124, 60_exceptions.md §3), the key buffer, the result slots
of the codec, and the register map (20_memory.md R64).
-/

namespace Sys2Proof.Machine

/-! ## Reset -/

/-- Hardware reset: every element takes its reset value (10_state.md R44, 70_reset_and_hazards.md R340). -/
def hardReset (s : State) : State := { State.reset with bus := s.bus }

/-- Soft reset: the same state, but CTRL keeps its value (R44, R342). -/
def softReset (s : State) : State :=
  { State.reset with strict := s.strict, ieDone := s.ieDone, ieErr := s.ieErr, bus := s.bus }

/-! ## Acceptance and completion -/

/-- Acceptance of a command word (40_control.md R121). -/
def accept (w : Word) (s : State) : State :=
  { s with pend := some { word := w, strict := s.strict }, busy := true, done := false }

/-- The end of every completion: PEND empty, BUSY 0, DONE 1 (R123). -/
def retire (s : State) : State := { s with pend := none, busy := false, done := true }

/-- The completion of a command (R123). `r` is what the command's pseudocode answers from the state `s`: the state it
leaves, or the error it raises. A raised error takes the block into its error state: everything the command did is
undone, and the error is recorded (`fail` of R123, R302). -/
def complete (s : State) (r : Except Error State) : Answer :=
  match r with
  | .ok t => .next (retire t)
  | .error e => .next (retire (recordError e s))

/-- The decoding policy of the command being completed: the STRICT value latched when it was accepted (R121). With no
command pending, which no step meets, it is CTRL.STRICT as it stands (log 5). -/
def latchedStrict (s : State) : Bool :=
  match s.pend with
  | some p => p.strict
  | none => s.strict

/-! ## The key buffer -/

/-- The Secret: `KEY[0..KEYLEN)` (10_state.md R23). -/
def secret (s : State) : List Byte := s.key.toList.take s.keylen.val

/-- Append one byte to the key buffer, or raise KEY_OVERFLOW when KEYLEN = 64 (42_key_counter.md R201,
41_base32.md R160). -/
def appendKey (byte : Byte) (s : State) : Except Error State :=
  if h : s.keylen.val < 64 then
    .ok { s with key := s.key.set s.keylen.val byte h, keylen := ⟨s.keylen.val + 1, by omega⟩ }
  else .error .keyOverflow

/-! ## Result slots of the codec -/

/-- The encoder's result slots at the end of an encoder command that emitted `out` (41_base32.md R151). -/
def setEout (out : List Byte) (s : State) : State :=
  match out with
  | [] => { s with eoutC0 := 0, eoutC1 := 0, eoutN := 0 }
  | [c] => { s with eoutC0 := c, eoutC1 := 0, eoutN := 1 }
  | c :: d :: _ => { s with eoutC0 := c, eoutC1 := d, eoutN := 2 }

/-- The decoder's result fields; every decoder command writes all of them (10_state.md R34). `byte` is the byte it
produced, if any. -/
def setDout (byte : Option Byte) (skip padc : Bool) (drop : Fin 8) (s : State) : State :=
  { s with doutByte := byte.getD 0, doutV := byte.isSome, doutSkip := skip, doutPadc := padc, doutDrop := drop }

/-! ## The register map -/

/-- The value RegRead gives for an offset (20_memory.md R62, R64); a reserved offset reads 0 (R65). -/
def regValue (s : State) (off : BitVec 8) : Word :=
  match off.toNat with
  | 0x04 => ctrlWord s
  | 0x08 => statusWord s
  | 0x0C => BitVec.ofNat 32 s.keylen.val
  | 0x10 => s.ctr.extractLsb' 32 32
  | 0x14 => s.ctr.extractLsb' 0 32
  | 0x18 => be32 s.digest.toList 0
  | 0x1C => be32 s.digest.toList 4
  | 0x20 => be32 s.digest.toList 8
  | 0x24 => be32 s.digest.toList 12
  | 0x28 => be32 s.digest.toList 16
  | 0x2C => s.trunc.setWidth 32
  | 0x30 => s.offset.setWidth 32
  | 0x34 => BitVec.ofNat 32 s.codeNum.val
  | 0x38 => be32 s.code.toList 0
  | 0x3C => (s.code[4].setWidth 32 <<< 24) ||| (s.code[5].setWidth 32 <<< 16)
  | 0x40 => (s.eoutC0.setWidth 32 <<< 24) ||| (s.eoutC1.setWidth 32 <<< 16) ||| BitVec.ofNat 32 s.eoutN.val
  | 0x44 => s.eacc.setWidth 32 ||| (BitVec.ofNat 32 s.ecnt.val <<< 16)
  | 0x48 => s.doutByte.setWidth 32 ||| flagBit s.doutV 8 ||| flagBit s.doutSkip 9 ||| flagBit s.doutPadc 10
      ||| (BitVec.ofNat 32 s.doutDrop.val <<< 16)
  | 0x4C => s.dacc.setWidth 32 ||| (BitVec.ofNat 32 s.dcnt.val <<< 16) ||| flagBit s.dpad 20
  | 0x50 => Config.idValue
  | _ => 0

/-- CTRL, STATUS and ID: the registers whose read is promised while BUSY = 1 (60_exceptions.md R318). -/
def alwaysReadable (off : BitVec 8) : Bool := off == 0x04 || off == 0x08 || off == 0x50

/-- Does a read of the offset return a draw (R318)? -/
def readIsDraw (s : State) (off : BitVec 8) : Bool := s.busy && !alwaysReadable off

/-- The value a host read of the offset returns: the register's, or a fresh draw (R62, R318). -/
def readValue (s : State) (off : BitVec 8) : Word :=
  if readIsDraw s off then Config.busyRead s.bus.draws else regValue s off

/-- A host read: it changes no element of the block (R62); the value goes to the host, and a draw is used up. -/
def regRead (off : BitVec 8) (s : State) : State :=
  { s with bus := { s.bus with
      readLog := (off, readValue s off) :: s.bus.readLog
      draws := if readIsDraw s off then s.bus.draws + 1 else s.bus.draws } }

end Sys2Proof.Machine
end

