-- ==== Sys2Proof/Machine/Base32.lean ====
section
/-!
DEFINITION. The Base32 encoder and decoder (41_base32.md): the alphabet and its inverse, the encoder's step and flush,
the decoder's step under both policies, and the six commands.
-/

namespace Sys2Proof.Machine

/-! ## The alphabet (10_state.md R35, 41_base32.md R150) -/

/-- The 32 symbols `A`–`Z`, `2`–`7` in order, as ASCII codes (R35). -/
def alphabet : Vector Byte 32 := #v[
  0x41, 0x42, 0x43, 0x44, 0x45, 0x46, 0x47, 0x48, 0x49, 0x4A, 0x4B, 0x4C, 0x4D,
  0x4E, 0x4F, 0x50, 0x51, 0x52, 0x53, 0x54, 0x55, 0x56, 0x57, 0x58, 0x59, 0x5A,
  0x32, 0x33, 0x34, 0x35, 0x36, 0x37]

/-- ALPHABET[i]. -/
def symbol (i : BitVec 5) : Byte := alphabet[i.toNat]

/-- `norm(c)`: ASCII lower case is folded to upper case, every other code is left as it is (R150). -/
def normChar (c : Byte) : Byte := if 0x61 ≤ c ∧ c ≤ 0x7A then c - 0x20 else c

/-- `inAlpha(c)` (R150). -/
def inAlpha (c : Byte) : Bool := decide (0x41 ≤ c ∧ c ≤ 0x5A) || decide (0x32 ≤ c ∧ c ≤ 0x37)

/-- `INDEX(c)`, defined exactly for the codes of the alphabet (R35, R150). -/
def symbolIndex (c : Byte) : Option (BitVec 5) :=
  if 0x41 ≤ c ∧ c ≤ 0x5A then some ((c - 0x41).setWidth 5)
  else if 0x32 ≤ c ∧ c ≤ 0x37 then some ((c - 0x32 + 26).setWidth 5)
  else none

/-! ## Encoder -/

/-- The loop of B32E_BYTE (R153): while at least 5 valid bits remain of the `n` in `a`, emit the symbol of the top 5.
Answers the characters and the count left; `fuel` bounds the turns of the loop, of which there are at most `n`. -/
def emitGroups (a : BitVec 13) : (fuel n : Nat) → List Byte × Nat
  | 0, n => ([], n)
  | fuel + 1, n =>
    if 5 ≤ n then
      let rest := emitGroups a fuel (n - 5)
      (symbol ((a >>> (n - 5)).setWidth 5) :: rest.1, rest.2)
    else ([], n)

/-- B32E_BYTE's pseudocode (R153). -/
def encodeByte (byte : Byte) (s : State) : State :=
  let a : BitVec 13 := (s.eacc <<< 8) ||| byte.setWidth 13
  let n := s.ecnt.val + 8
  let groups := emitGroups a n n
  setEout groups.1 { s with eacc := a &&& lowMask 13 groups.2, ecnt := Fin.ofNat 5 groups.2 }

/-- The character B32E_FIN emits: the leftover bits, zero bits appended on their right (R154, 90_conflicts.md C1). -/
def flushChars (s : State) : List Byte :=
  if 1 ≤ s.ecnt.val then [symbol ((s.eacc <<< (5 - s.ecnt.val)).setWidth 5)] else []

/-- B32E_CLR: start a new encoding (R152). -/
def execB32eClr (s : State) : Answer :=
  complete s (.ok (setEout [] { s with eacc := 0, ecnt := 0 }))

/-- B32E_BYTE: feed one input byte (R153). -/
def execB32eByte (byte : Byte) (s : State) : Answer := complete s (.ok (encodeByte byte s))

/-- B32E_FIN: flush the encoder (R154). -/
def execB32eFin (s : State) : Answer :=
  complete s (.ok (setEout (flushChars s) { s with eacc := 0, ecnt := 0 }))

/-! ## Decoder -/

/-- Route a produced byte into the key buffer when K = 1 (R160). -/
def routeByte (k : Bool) (byte : Byte) (s : State) : Except Error State :=
  if k then appendKey byte s else .ok s

/-- B32D_CHAR on a character of the alphabet with index `x`, its strict checks passed (R162). -/
def decodeSymbol (k : Bool) (x : BitVec 5) (s : State) : Except Error State :=
  let a : BitVec 12 := (s.dacc <<< 5) ||| x.setWidth 12
  let n := s.dcnt.val + 5
  if 8 ≤ n then
    let byte : Byte := (a >>> (n - 8)).setWidth 8
    match routeByte k byte s with
    | .error e => .error e
    | .ok t => .ok (setDout (some byte) false false 0
        { t with dacc := a &&& lowMask 12 (n - 8), dcnt := Fin.ofNat 8 (n - 8) })
  else
    .ok (setDout none false false 0 { s with dacc := a &&& lowMask 12 n, dcnt := Fin.ofNat 8 n })

/-- B32D_CHAR's pseudocode under the policy `strict` (R162, R163). -/
def decodeChar (k : Bool) (char : Byte) (strict : Bool) (s : State) : Except Error State :=
  match symbolIndex (normChar char) with
  | some x =>
    if strict && s.dpad then .error .invalidEncoding
    else decodeSymbol k x s
  | none =>
    if normChar char = 0x3D then .ok (setDout none true true 0 { s with dpad := true })
    else if strict then .error .invalidEncoding
    else .ok (setDout none true false 0 s)

/-- B32D_CLR: start a new decoding (R161). -/
def execB32dClr (s : State) : Answer :=
  complete s (.ok (setDout none false false 0 { s with dacc := 0, dcnt := 0, dpad := false }))

/-- B32D_CHAR and B32D_CHAR.K: feed one character, under the policy latched at acceptance (R162). -/
def execB32dChar (k : Bool) (char : Byte) (s : State) : Answer :=
  complete s (decodeChar k char (latchedStrict s) s)

/-- B32D_FIN: end a decoding; the bits left are dropped and counted (R164). -/
def execB32dFin (s : State) : Answer :=
  complete s (.ok (setDout none false false s.dcnt { s with dacc := 0, dcnt := 0, dpad := false }))

end Sys2Proof.Machine
end

