-- ==== Sys2Proof/Machine/Control.lean ====
section
/-!
DEFINITION. The control commands NOP, SRST and ERR_CLR (40_control.md §2).
-/

namespace Sys2Proof.Machine

/-- NOP: no operation but its completion (R125). -/
def execNop (s : State) : Answer := complete s (.ok s)

/-- SRST: soft reset, performed at the CMD write itself and never pending, so it has no completion (R126). -/
def execSrst (s : State) : Answer := .next (softReset s)

/-- ERR_CLR: the return from the error state (R127, 60_exceptions.md R311). -/
def execErrClr (s : State) : Answer := complete s (.ok (clearError s))

end Sys2Proof.Machine
end

