-- ==== Sys2Proof/Machine/Sha1.lean ====
section
/-!
DEFINITION. SHA-1, HMAC-SHA1 and the core's fixed plan of four compressions (43_hmac_sha1.md R231–R240).
-/

namespace Sys2Proof.Machine

/-! ## SHA-1 (R231–R238) -/

/-- The five words of a hash value, H[0] to H[4], and the working variables a to e of a compression. -/
structure HashWords where
  a : Word
  b : Word
  c : Word
  d : Word
  e : Word
deriving DecidableEq, Repr

/-- ROTL_n(x) (R231). -/
def rotl (n : Nat) (x : Word) : Word := (x <<< n) ||| (x >>> (32 - n))

/-- The initial hash value (R232). -/
def hInit : HashWords := ⟨0x67452301, 0xEFCDAB89, 0x98BADCFE, 0x10325476, 0xC3D2E1F0⟩

/-- The round function f_t (R233). -/
def roundFn (t : Nat) (b c d : Word) : Word :=
  if t < 20 then (b &&& c) ^^^ (~~~b &&& d)
  else if t < 40 then b ^^^ c ^^^ d
  else if t < 60 then (b &&& c) ^^^ (b &&& d) ^^^ (c &&& d)
  else b ^^^ c ^^^ d

/-- The round constant K_t (R234). -/
def roundConst (t : Nat) : Word :=
  if t < 20 then 0x5A827999 else if t < 40 then 0x6ED9EBA1 else if t < 60 then 0x8F1BBCDC else 0xCA62C1D6

/-- Extend a message schedule, held newest word first, by `n` words of the recurrence of R235. -/
def extendSchedule : (n : Nat) → (newestFirst : List Word) → List Word
  | 0, ws => ws
  | n + 1, ws =>
    extendSchedule n (rotl 1 (ws.getD 2 0 ^^^ ws.getD 7 0 ^^^ ws.getD 13 0 ^^^ ws.getD 15 0) :: ws)

/-- The message schedule W[0..79] of one 64-byte block (R235). -/
def schedule (B : List Byte) : List Word :=
  (extendSchedule 64 ((List.range 16).map fun t => be32 B (4 * t)).reverse).reverse

/-- Round `t` with schedule word `w` (R236). -/
def sha1Round (t : Nat) (w : Word) (h : HashWords) : HashWords :=
  { a := rotl 5 h.a + roundFn t h.b h.c h.d + h.e + roundConst t + w
    b := h.a
    c := rotl 30 h.b
    d := h.c
    e := h.d }

/-- The rounds from `t` on, one for each schedule word left (R236). -/
def sha1Rounds : (t : Nat) → List Word → HashWords → HashWords
  | _, [], h => h
  | t, w :: ws, h => sha1Rounds (t + 1) ws (sha1Round t w h)

/-- SHA1_COMPRESS(H, B) (R236). -/
def sha1Compress (H : HashWords) (B : List Byte) : HashWords :=
  let r := sha1Rounds 0 (schedule B) H
  ⟨H.a + r.a, H.b + r.b, H.c + r.c, H.d + r.d, H.e + r.e⟩

/-- z of R237: the least number with `len + 1 + z ≡ 56 (mod 64)`. -/
def padZeros (len : Nat) : Nat := (119 - len % 64) % 64

/-- pad(M) (R237). -/
def sha1Pad (M : List Byte) : List Byte :=
  M ++ [0x80] ++ List.replicate (padZeros M.length) 0 ++ be64 (BitVec.ofNat 64 (8 * M.length))

/-- The 64-byte blocks of a byte string, in order. -/
def blocks (P : List Byte) : List (List Byte) :=
  (List.range (P.length / 64)).map fun k => (P.drop (64 * k)).take 64

/-- The 20 bytes of a hash value, H[0] first, each word's most significant byte first (R238). -/
def HashWords.bytes (h : HashWords) : List Byte :=
  wordBytes h.a ++ wordBytes h.b ++ wordBytes h.c ++ wordBytes h.d ++ wordBytes h.e

/-- SHA1(M) (R238). -/
def sha1 (M : List Byte) : List Byte := ((blocks (sha1Pad M)).foldl sha1Compress hInit).bytes

/-! ## HMAC (R239) and the fixed plan (R240) -/

/-- K0: the key, filled with zero bytes to one block (R239). -/
def hmacKeyBlock (k : List Byte) : List Byte := k ++ List.replicate (64 - k.length) 0

/-- K0 ⊕ ipad (R239). -/
def innerKey (k : List Byte) : List Byte := (hmacKeyBlock k).map (· ^^^ 0x36)

/-- K0 ⊕ opad (R239). -/
def outerKey (k : List Byte) : List Byte := (hmacKeyBlock k).map (· ^^^ 0x5C)

/-- HMAC_SHA1(k, m) for a key of at most one block (R239); the block never holds a longer one (R24, log 15). -/
def hmacSha1 (k m : List Byte) : List Byte := sha1 (outerKey k ++ sha1 (innerKey k ++ m))

/-- IB2 of R240: the counter, and the padding of a 72-byte message. -/
def innerBlock2 (ctr : Counter) : List Byte := be64 ctr ++ [0x80] ++ List.replicate 47 0 ++ be64 576

/-- OB2 of R240: the inner digest, and the padding of an 84-byte message. -/
def outerBlock2 (inner : List Byte) : List Byte := inner ++ [0x80] ++ List.replicate 35 0 ++ be64 672

/-- The fixed key schedule of R240: four compressions of blocks of fixed layout. -/
def hmacPlan (k : List Byte) (ctr : Counter) : List Byte :=
  let inner := (sha1Compress (sha1Compress hInit (innerKey k)) (innerBlock2 ctr)).bytes
  (sha1Compress (sha1Compress hInit (outerKey k)) (outerBlock2 inner)).bytes

end Sys2Proof.Machine
end

