-- ==== Sys2Proof/Machine/Hash.lean ====
section
/-!
DEFINITION. The hash commands: HMAC (43_hmac_sha1.md R241), the truncation functions (44_truncation.md R270–R273) with
DTRUNC (R275), and HOTP (R276).
-/

namespace Sys2Proof.Machine

/-! ## The truncation functions -/

/-- `OFF(D)`: the low nibble of the last digest byte (R270). -/
def truncOffset (D : Vector Byte 20) : BitVec 4 := (D[19] &&& 0x0F).setWidth 4

/-- `P(D)`: four digest bytes from the offset on, big-endian, the sign bit masked (R271). -/
def truncValue (D : Vector Byte 20) : Word :=
  let o := (truncOffset D).toNat
  have ho : o < 16 := (truncOffset D).isLt
  ((D[o] &&& 0x7F).setWidth 32 <<< 24) ||| (D[o + 1].setWidth 32 <<< 16)
    ||| (D[o + 2].setWidth 32 <<< 8) ||| D[o + 3].setWidth 32

/-- `NUM(D)`: the reduction modulo 10^6 (R272). -/
def codeNumber (D : Vector Byte 20) : Fin 1000000 :=
  ⟨(truncValue D).toNat % Config.codeModulus, Nat.mod_lt _ (by decide)⟩

/-- `CHR(D)[i]`: digit `i` of the zero-padded decimal form, most significant first, in ASCII (R273). -/
def codeDigit (num i : Nat) : Byte := BitVec.ofNat 8 (0x30 + num / 10 ^ (5 - i) % 10)

/-- `CHR(D)`: the six characters of the code (R273). -/
def codeChars (num : Nat) : Vector Byte 6 := Vector.ofFn fun i => codeDigit num i.val

/-! ## The bodies of the commands -/

/-- A digest register's value from the 20 bytes of a hash. -/
def digestOf (bytes : List Byte) : Vector Byte 20 := Vector.ofFn fun i => byteAt bytes i.val

/-- The keyed digest of the counter: HMAC_SHA1(KEY[0..KEYLEN), be64(CTR)) (R241). -/
def keyedDigest (s : State) : Vector Byte 20 := digestOf (hmacSha1 (secret s) (be64 s.ctr))

/-- HMAC's pseudocode (R241): INVALID_SECRET when there is no secret, else DIGEST and DV are written. -/
def computeDigest (s : State) : Except Error State :=
  if s.keylen.val = 0 then .error .invalidSecret
  else .ok { s with digest := keyedDigest s, dv := true }

/-- The writes of DTRUNC (R275): the results of truncating the held digest. -/
def truncateDigest (s : State) : State :=
  { s with
    offset := truncOffset s.digest
    trunc := (truncValue s.digest).setWidth 31
    codeNum := codeNumber s.digest
    code := codeChars (codeNumber s.digest).val
    cv := true }

/-! ## The commands -/

/-- HMAC: compute the keyed digest of the counter (R241). -/
def execHmac (s : State) : Answer := complete s (computeDigest s)

/-- DTRUNC: truncate the held digest, or raise NO_DIGEST (R275). -/
def execDtrunc (s : State) : Answer :=
  complete s (if s.dv then .ok (truncateDigest s) else .error .noDigest)

/-- HOTP: the 6-digit code for the loaded key and counter (R276). -/
def execHotp (s : State) : Answer := complete s ((computeDigest s).map truncateDigest)

end Sys2Proof.Machine
end

