-- ==== Sys2Proof/Machine/KeyCounter.lean ====
section
/-!
DEFINITION. The key buffer and counter commands KEY_CLR, KEY_BYTE, CTR_LD and CTR_ADDI (42_key_counter.md).
-/

namespace Sys2Proof.Machine

/-- KEY_CLR: zero the 64 key bytes and KEYLEN (R200). -/
def execKeyClr (s : State) : Answer :=
  complete s (.ok { s with key := Vector.replicate 64 0, keylen := 0 })

/-- KEY_BYTE: append one secret byte, or raise KEY_OVERFLOW (R201). -/
def execKeyByte (byte : Byte) (s : State) : Answer := complete s (appendKey byte s)

/-- CTR_LD: load one 16-bit lane of the counter (R203). -/
def execCtrLd (lane : BitVec 2) (imm : BitVec 16) (s : State) : Answer :=
  complete s (.ok { s with ctr := replaceLane s.ctr lane imm })

/-- CTR_ADDI: add a signed constant to the counter, modulo 2^64 (R204). -/
def execCtrAddi (imm : BitVec 16) (s : State) : Answer :=
  complete s (.ok { s with ctr := s.ctr + sext64 imm })

end Sys2Proof.Machine
end

