-- ==== Sys2Proof/Machine/Dispatch.lean ====
section
/-!
DEFINITION. The meaning of a command: one arm per constructor of Instr. For every command but SRST it is the engine's
completion of that command (40_control.md R123); for SRST it is the reset its CMD write performs (R126).
-/

namespace Sys2Proof.Machine

def exec (i : Instr) (s : State) : Host.Outcome State Fault Refusal :=
  match i with
  | .nop => Sys2Proof.Machine.execNop s
  | .srst => Sys2Proof.Machine.execSrst s
  | .errClr => Sys2Proof.Machine.execErrClr s
  | .keyClr => Sys2Proof.Machine.execKeyClr s
  | .keyByte byte => Sys2Proof.Machine.execKeyByte byte s
  | .ctrLd lane imm => Sys2Proof.Machine.execCtrLd lane imm s
  | .ctrAddi imm => Sys2Proof.Machine.execCtrAddi imm s
  | .hmac => Sys2Proof.Machine.execHmac s
  | .dtrunc => Sys2Proof.Machine.execDtrunc s
  | .hotp => Sys2Proof.Machine.execHotp s
  | .b32eClr => Sys2Proof.Machine.execB32eClr s
  | .b32eByte byte => Sys2Proof.Machine.execB32eByte byte s
  | .b32eFin => Sys2Proof.Machine.execB32eFin s
  | .b32dClr => Sys2Proof.Machine.execB32dClr s
  | .b32dChar k char => Sys2Proof.Machine.execB32dChar k char s
  | .b32dFin => Sys2Proof.Machine.execB32dFin s

end Sys2Proof.Machine
end

