-- ==== Sys2Proof/Machine/Port.lean ====
section
/-!
DEFINITION. The agents' turns: the host's accesses at the port (20_memory.md R62–R66) with the issue of command words
(40_control.md R120), the engine's completion step (R123), and the reset input (70_reset_and_hazards.md R340).
-/

namespace Sys2Proof.Machine

/-! ## The host -/

/-- May a command word be accepted while ERR = 1 (R120, R122)? OP is 0x00 (NOP) or 0x02 (ERR_CLR). -/
def acceptedInError (w : Word) : Bool := opField w == 0x00 || opField w == 0x02

/-- A host write of `w` to CMD (R120): SRST is performed at once; while BUSY = 1 the write is an overrun; while ERR = 1
most words are discarded; otherwise the word is accepted. -/
def issue (w : Word) (s : State) : Answer :=
  if w = srstWord then exec .srst s
  else if s.busy then .next (recordError .cmdOverrun s)
  else if s.err && !acceptedInError w then .next s
  else .next (accept w s)

/-- RegWrite (20_memory.md R63): CMD, CTRL and STATUS take the write, every other offset ignores it. -/
def regWrite (off : BitVec 8) (v : Word) (s : State) : Answer :=
  match off.toNat with
  | 0x00 => issue v s
  | 0x04 => .next (writeCtrl v s)
  | 0x08 => .next (writeStatus v s)
  | _ => .next s

/-- The window access an access of the host bus is: `none` when its address lies outside the 256 bytes from BASE on, so
that it is no access to this block (R60; log 10). -/
def accessAt (addr : Nat) (width : Width) (lanes : BitVec 4) (dir : Direction) : Option Access :=
  if Config.base ≤ addr ∧ addr < Config.base + Config.windowBytes then
    some { off := BitVec.ofNat 8 (addr - Config.base), width := width, lanes := lanes, dir := dir }
  else none

/-- Why the model refuses an access, if it does: only an aligned 32-bit access with all byte lanes is admitted (R66). -/
def accessRefusal (a : Access) : Option Refusal :=
  if a.width ≠ .word then some .narrowAccess
  else if a.off.toNat % 4 ≠ 0 then some .misalignedAccess
  else if a.lanes ≠ 0xF then some .partialByteEnables
  else none

/-- One access of the host at the port (R62, R63, R66). -/
def hostAccess (a : Access) (s : State) : Answer :=
  match accessRefusal a with
  | some r => .refused r
  | none =>
    match a.dir with
    | .read => .next (regRead a.off s)
    | .write v => regWrite a.off v s

/-! ## The engine -/

/-- The engine's completion step (R123): with PEND full, the word is decoded and the command performed, or ILLEGAL_CMD
raised (60_exceptions.md R303); with PEND empty the engine is not enabled and nothing happens. -/
def engineStep (s : State) : Answer :=
  match s.pend with
  | none => .next s
  | some p =>
    match decode p.word with
    | .ok i => exec i s
    | .error _ => complete s (.error .illegalCmd)

/-! ## Turns -/

/-- The turn of one agent, the reset input left out. -/
def agentTurn (u : Turn) (s : State) : Answer :=
  match u with
  | .host a => hostAccess a s
  | .engine => engineStep s
  | .resetInput asserted => .next { s with bus := { s.bus with resetPin := asserted } }

/-- While the reset input is asserted, and when it is released, every element holds its reset value (R340): `before` and
`after` are the states about a turn. -/
def holdReset (before after : State) : State :=
  if before.bus.resetPin || after.bus.resetPin then hardReset after else after

/-- The turn of one agent. -/
def takeTurn (u : Turn) (s : State) : Answer :=
  match agentTurn u s with
  | .next t => .next (holdReset s t)
  | .fault f => .fault f
  | .refused r => .refused r

/-- Whose turn is next: the first scheduled turn, and the engine's when none is scheduled (log 1). -/
def nextTurn (s : State) : Turn := s.bus.turns.headD .engine

/-- The state once the next turn is taken off the schedule. -/
def popTurn (s : State) : State := { s with bus := { s.bus with turns := s.bus.turns.tail } }

/-- A word-wide write of the host to CMD. -/
def cmdWrite (w : Word) : Turn := .host { off := 0x00, width := .word, lanes := 0xF, dir := .write w }

/-- `s` with the command word `w` where the next step runs it, and the reset input released. SRST runs at its CMD write,
so that write is the next turn; every other word runs at its completion, so it stands accepted in PEND and the engine's
turn is next (log 7). -/
def placeCommand (w : Word) (s : State) : State :=
  let u := { s with bus := { s.bus with resetPin := false } }
  if w = srstWord then { u with bus := { u.bus with turns := cmdWrite w :: u.bus.turns } }
  else accept w { u with bus := { u.bus with turns := .engine :: u.bus.turns } }

end Sys2Proof.Machine
end

