-- ==== Sys2Proof/Machine/Step.lean ====
section
/-!
DEFINITION. One step of the machine: the next turn of the schedule is taken by its agent (20_memory.md R73,
70_reset_and_hazards.md R350).
-/

namespace Sys2Proof.Machine

/-- One step: one host access, one completion of the engine, or one change of the reset input. -/
def step (s : State) : Host.Outcome State Fault Refusal := takeTurn (nextTurn s) (popTurn s)

/-- `s` with the table word stored where `step` takes its next command from. -/
def State.withFetchWord (s : State) (nbits w : Nat) : State := placeCommand (tableWord nbits w) s

end Sys2Proof.Machine
end

