-- ==== Sys2Proof/Machine/Listing.lean ====
section
/-!
DEFINITION. The notation of program listings (30_encoding.md §5): the text of a command line (R102), the host actions
(R103), the pseudo-instructions (R104), and the list of turns each stands for. The block itself sees none of this: a
listing is what a host does at the port (log 16, log 17).
-/

namespace Sys2Proof.Machine

/-! ## The text of a command line (R102) -/

/-- The value of a digit in a base of at most 16. -/
def digitValue (base : Nat) (c : Char) : Option Nat :=
  let v := if '0' ≤ c ∧ c ≤ '9' then c.toNat - 48
    else if 'A' ≤ c ∧ c ≤ 'F' then c.toNat - 55
    else if 'a' ≤ c ∧ c ≤ 'f' then c.toNat - 87
    else 16
  if v < base then some v else none

/-- A number written with at least one digit. -/
def parseDigits (base : Nat) (cs : List Char) : Option Nat :=
  if cs.isEmpty then none
  else cs.foldl (fun acc c => acc.bind fun n => (digitValue base c).map fun d => n * base + d) (some 0)

/-- An operand: decimal, `0xNN`, a quoted ASCII character, or a decimal with a minus sign. R102 gives the first three
forms for `byte` and `char` and does not say how `lane`, `imm16` and `simm16` are written: every form is read for every
operand, and its range is checked afterwards. R102 writes two hexadecimal digits in `0xNN` and 42_key_counter.md R203 writes
four: one or more are read (DESIGN CHOICE, log 16). -/
def parseOperand : List Char → Option Int
  | ['\'', c, '\''] => if c.toNat < 128 then some c.toNat else none
  | '0' :: 'x' :: cs => (parseDigits 16 cs).map Int.ofNat
  | '-' :: cs => (parseDigits 10 cs).map fun n => -(n : Int)
  | cs => (parseDigits 10 cs).map Int.ofNat

/-- The tokens of a line: blanks and commas separate them, a quoted character is one token, `;` starts a comment.
`cur` is the token being read, its last character first. -/
def tokens : (cur line : List Char) → List (List Char)
  | cur, [] => if cur.isEmpty then [] else [cur.reverse]
  | [], '\'' :: c :: '\'' :: cs => ['\'', c, '\''] :: tokens [] cs
  | cur, c :: cs =>
    if c = ';' then (if cur.isEmpty then [] else [cur.reverse])
    else if c = ' ' ∨ c = '\t' ∨ c = ',' then
      (if cur.isEmpty then tokens [] cs else cur.reverse :: tokens [] cs)
    else tokens (c :: cur) cs

/-- The command line with a mnemonic and operands (R102). -/
def asmLineOf (mnemonic : List Char) (operands : List Int) : Option AsmLine :=
  match operands with
  | [] =>
    if mnemonic = "NOP".toList then some .nop
    else if mnemonic = "SRST".toList then some .srst
    else if mnemonic = "ERR_CLR".toList then some .errClr
    else if mnemonic = "KEY_CLR".toList then some .keyClr
    else if mnemonic = "HMAC".toList then some .hmac
    else if mnemonic = "DTRUNC".toList then some .dtrunc
    else if mnemonic = "HOTP".toList then some .hotp
    else if mnemonic = "B32E_CLR".toList then some .b32eClr
    else if mnemonic = "B32E_FIN".toList then some .b32eFin
    else if mnemonic = "B32D_CLR".toList then some .b32dClr
    else if mnemonic = "B32D_FIN".toList then some .b32dFin
    else none
  | [x] =>
    if mnemonic = "CTR_ADDI".toList then some (.ctrAddi x)
    else if x < 0 then none
    else if mnemonic = "KEY_BYTE".toList then some (.keyByte x.toNat)
    else if mnemonic = "B32E_BYTE".toList then some (.b32eByte x.toNat)
    else if mnemonic = "B32D_CHAR".toList then some (.b32dChar false x.toNat)
    else if mnemonic = "B32D_CHAR.K".toList then some (.b32dChar true x.toNat)
    else none
  | [x, y] =>
    if x < 0 ∨ y < 0 then none
    else if mnemonic = "CTR_LD".toList then some (.ctrLd x.toNat y.toNat)
    else none
  | _ => none

/-- Read one command line; `none` where the line is none: an assembly error (R102), or a blank or comment-only line, of which
R102 does not say what it is (DESIGN CHOICE, log 16). -/
def parseLine (line : List Char) : Option Instr :=
  match tokens [] line with
  | [] => none
  | mnemonic :: operands => do
    let xs ← operands.mapM parseOperand
    let l ← asmLineOf mnemonic xs
    l.assemble

/-! ## Host actions (R103) -/

/-- An action of the host in a program listing (R103). -/
inductive HostAction where
  /-- a command line: write the word, then WAIT -/
  | cmd (i : Instr)
  /-- ISSUE: write the word without the WAIT -/
  | issue (i : Instr)
  /-- WAIT: read STATUS until BUSY = 0 -/
  | wait
  /-- WR off, v -/
  | wr (off : BitVec 8) (v : Word)
  /-- RD off -> name -/
  | rd (off : BitVec 8)
deriving DecidableEq, Repr

/-- `MemWrite(BASE+off, 4, v)` (R11, R103). -/
def memWrite (off : BitVec 8) (v : Word) : Turn := .host { off := off, width := .word, lanes := 0xF, dir := .write v }

/-- `MemRead(BASE+off, 4)` (R11, R103). -/
def memRead (off : BitVec 8) : Turn := .host { off := off, width := .word, lanes := 0xF, dir := .read }

/-- The turns of WAIT when the engine completes after `lat` polls of STATUS: those polls, the completion, and the poll
that reads BUSY = 0 (R103, log 17). -/
def waitTurns (lat : Nat) : List Turn := List.replicate lat (memRead 0x08) ++ [.engine, memRead 0x08]

/-- The turns of a host action, with the latency `lat` of its WAIT: a command line is its write followed by WAIT (R103).
When the command of an ISSUE completes is open (LAT, 00_scope.md R9; 60_exceptions.md R309): here ISSUE brings no turn of the
engine, so its command stays pending until a later WAIT, a command line's or one of its own, or until the listing has ended
(DESIGN CHOICE, log 17). -/
def HostAction.turns (lat : Nat) : HostAction → List Turn
  | .cmd i => memWrite 0x00 (encode i) :: waitTurns lat
  | .issue i => [memWrite 0x00 (encode i)]
  | .wait => waitTurns lat
  | .wr off v => [memWrite off v]
  | .rd off => [memRead off]

/-- The turns of a listing whose actions have the latencies `lats` in order, 0 past the end of that list; an action without a
WAIT passes over its own. No turn of the engine stands but in a WAIT, so an ISSUEd command completes at none of the other
points LAT would admit (DESIGN CHOICE, log 17). -/
def listingTurns : (lats : List Nat) → List HostAction → List Turn
  | _, [] => []
  | [], a :: as => a.turns 0 ++ listingTurns [] as
  | lat :: lats, a :: as => a.turns lat ++ listingTurns lats as

/-! ## Pseudo-instructions (R104) -/

/-- The pseudo-instructions of R104; a text is its list of byte codes. -/
inductive Pseudo where
  | ctrSet (imm : Counter)
  | ctrInc
  | ctrDec
  | keyLoad (bytes : List Byte)
  | keyB32 (text : List Byte)
  | b32Enc (bytes : List Byte)
  | b32Dec (text : List Byte)
  | clrDone
deriving DecidableEq, Repr

/-- The expansion of a pseudo-instruction (R104). -/
def Pseudo.expand : Pseudo → List HostAction
  | .ctrSet imm => [
      .cmd (.ctrLd 3 (imm.extractLsb' 48 16)), .cmd (.ctrLd 2 (imm.extractLsb' 32 16)),
      .cmd (.ctrLd 1 (imm.extractLsb' 16 16)), .cmd (.ctrLd 0 (imm.extractLsb' 0 16))]
  | .ctrInc => [.cmd (.ctrAddi 1)]
  | .ctrDec => [.cmd (.ctrAddi (-1))]
  | .keyLoad bytes => .cmd .keyClr :: bytes.map fun b => .cmd (.keyByte b)
  | .keyB32 text => .cmd .keyClr :: .cmd .b32dClr :: (text.map fun c => .cmd (.b32dChar true c)) ++ [.cmd .b32dFin]
  | .b32Enc bytes =>
      .cmd .b32eClr :: (bytes.flatMap fun b => [.cmd (.b32eByte b), .rd 0x40]) ++ [.cmd .b32eFin, .rd 0x40]
  | .b32Dec text =>
      .cmd .b32dClr :: (text.flatMap fun c => [.cmd (.b32dChar false c), .rd 0x48]) ++ [.cmd .b32dFin]
  | .clrDone => [.wr 0x08 0x00000002]

/-- The straight-line host procedure Generate (70_reset_and_hazards.md R356), a text and a time in seconds given; the
counter is the time over 30, floored. R356 puts a counter outside 0..2^64−1 (a pre-epoch time, or one of 30·2^64 seconds
and more) outside the procedure and says no more of it (91_not_in_source.md N20): the model has no listing there (`none`;
DESIGN CHOICE, log 20). The procedure is host software, not part of the block. -/
def generateListing (text : List Byte) (unixSeconds : Int) : Option (List HostAction) :=
  let counter := unixSeconds / 30
  if 0 ≤ counter ∧ counter < 2 ^ 64 then
    some ((Pseudo.keyB32 text).expand ++ (Pseudo.ctrSet (BitVec.ofInt 64 counter)).expand
      ++ [.cmd .hotp, .rd 0x08, .rd 0x38, .rd 0x3C])
  else none

end Sys2Proof.Machine
end

