-- ==== Sys2Proof/Safety.lean ====
section
/-!
DEFINITION. The invariants of the block that the spec states between commands, and the vocabulary the claims are
written in: how a command ends, which command a step performs, what a register reads, and what running a list of
commands yields. The vocabulary is written from the rules, not from the model's own operations.
-/

namespace Sys2Proof.Claims

open Sys2Proof.Machine

/-! ## Invariants -/

/-- PEND, BUSY and the error fields: BUSY = 1 exactly when PEND is full (10_state.md R39), ERR = 1 exactly when a code is
recorded (60_exceptions.md R305), DONE = 0 while a command is pending, and SRST never pends (40_control.md R126). -/
structure StatusInv (s : State) : Prop where
  busy_iff_pending : s.busy = s.pend.isSome
  err_iff_code     : s.err = s.errcode.isSome
  done_not_busy    : s.busy = true → s.done = false
  srst_not_pending : ∀ p, s.pend = some p → p.word ≠ 0x01000000

/-- Key bytes from KEYLEN on are zero (10_state.md R23). -/
def KeyInv (s : State) : Prop := ∀ i : Fin 64, s.keylen.val ≤ i.val → s.key[i] = 0

/-- The encoder between commands: EACC < 2^ECNT (R31), and a result slot beyond EOUT_N holds 0 (R32). -/
structure EncoderInv (s : State) : Prop where
  acc_bound : s.eacc.toNat < 2 ^ s.ecnt.val
  slot0     : s.eoutN.val = 0 → s.eoutC0 = 0
  slot1     : s.eoutN.val ≤ 1 → s.eoutC1 = 0

/-- The decoder between commands: DACC < 2^DCNT (R33), and the result fields of one command (R34). -/
structure DecoderInv (s : State) : Prop where
  acc_bound     : s.dacc.toNat < 2 ^ s.dcnt.val
  byte_if_v     : s.doutV = false → s.doutByte = 0
  padc_is_skip  : s.doutPadc = true → s.doutSkip = true
  v_not_skip    : s.doutV = true → s.doutSkip = false
  drop_only_fin : s.doutDrop.val ≠ 0 → s.doutV = false ∧ s.doutSkip = false

/-- The decimal value of six ASCII digits, the first the most significant. -/
def decimalValue (c : Vector Byte 6) : Nat :=
  (c.toList.map fun b => b.toNat - 0x30).foldl (fun n d => 10 * n + d) 0

/-- Is every character an ASCII digit? -/
def allDigits (c : Vector Byte 6) : Prop := ∀ b ∈ c.toList, 0x30 ≤ b.toNat ∧ b.toNat ≤ 0x39

/-- The results: CODE_NUM is TRUNC mod 10^6 (R29); once CV = 1, CODE is its decimal form (R30) and a digest has been
computed (R275, R276); before, the truncation results are 0; and DIGEST is 0 while DV = 0 (R26, R44). -/
structure ResultInv (s : State) : Prop where
  num_of_trunc : s.codeNum.val = s.trunc.toNat % 1000000
  code_of_num  : s.cv = true → allDigits s.code ∧ decimalValue s.code = s.codeNum.val
  cv_needs_dv  : s.cv = true → s.dv = true
  no_cv        : s.cv = false → s.offset = 0 ∧ s.trunc = 0 ∧ s.code = Vector.replicate 6 0
  no_dv        : s.dv = false → s.digest = Vector.replicate 20 0

/-- Everything the spec says holds between two steps. -/
structure Inv (s : State) : Prop where
  status  : StatusInv s
  key     : KeyInv s
  encoder : EncoderInv s
  decoder : DecoderInv s
  result  : ResultInv s

/-! ## How a command ends -/

/-- A completion without error: PEND empty, BUSY 0, DONE 1 (40_control.md R123). -/
def finished (s : State) : State := { s with pend := none, busy := false, done := true }

/-- A completion with error `e`: nothing but STATUS and PEND changes (60_exceptions.md R302), and ERRCODE keeps the
first error (R301). -/
def failed (e : Error) (s : State) : State :=
  { finished s with err := true, errcode := if s.err then s.errcode else some e }

/-- `s` with the next turn taken off the schedule: what a turn starts from. -/
def started (s : State) : State := { s with bus := { s.bus with turns := s.bus.turns.tail } }

/-- The next turn is the engine's: it is scheduled, or nothing is. -/
def EngineNext (s : State) : Prop := s.bus.turns.head? = some .engine ∨ s.bus.turns = []

/-- The next turn is the host's access `a`. -/
def HostNext (s : State) (a : Access) : Prop := s.bus.turns.head? = some (.host a)

/-- An admitted access: 32 bits, an offset that is a multiple of 4, all byte lanes (20_memory.md R66). -/
def Admitted (a : Access) : Prop := a.width = .word ∧ a.off.toNat % 4 = 0 ∧ a.lanes = 0xF

/-- An admitted read of `off`. -/
def readAt (off : BitVec 8) : Access := { off := off, width := .word, lanes := 0xF, dir := .read }

/-- An admitted write of `v` to `off`. -/
def writeAt (off : BitVec 8) (v : Word) : Access := { off := off, width := .word, lanes := 0xF, dir := .write v }

/-- The command the next step performs: the pending one at the engine's turn, SRST at its CMD write. -/
def Performs (s : State) (i : Instr) : Prop :=
  (EngineNext s ∧ ∃ p, s.pend = some p ∧ decode p.word = .ok i)
    ∨ (i = .srst ∧ HostNext s (writeAt 0x00 0x01000000))

/-- The "Encoding" and the ILLEGAL_CMD clause of a command's rule: at the engine's turn, a pending word with opcode `op`
is performed as the command `i` of the word when its must-be-0 bits `zero` are all 0, and otherwise completes with
ILLEGAL_CMD (30_encoding.md R97, R100). -/
def CompletesAs (op : BitVec 8) (zero : Word) (i : Word → Instr) : Prop :=
  ∀ (s : State) (p : Pending), s.bus.resetPin = false → EngineNext s → s.pend = some p → p.word.extractLsb' 24 8 = op →
    step s = if p.word &&& zero = 0 then exec (i p.word) (started s) else .next (failed .illegalCmd (started s))

/-- The next step accepts the word `w` (40_control.md R120, R121). -/
def Accepts (s : State) (w : Word) : Prop :=
  HostNext s (writeAt 0x00 w) ∧ w ≠ 0x01000000 ∧ s.busy = false ∧
    (s.err = false ∨ w.extractLsb' 24 8 = 0x00 ∨ w.extractLsb' 24 8 = 0x02)

/-- The next step records CMD_OVERRUN for the word `w` (60_exceptions.md R304, R301). -/
def Overruns (s : State) (w : Word) : Prop :=
  HostNext s (writeAt 0x00 w) ∧ w ≠ 0x01000000 ∧ s.busy = true ∧ s.err = false

/-- The next step is a completion (R123). -/
def Completes (s : State) : Prop := EngineNext s ∧ s.pend.isSome = true

/-! ## What a register reads -/

/-- A Boolean as one bit. -/
def bit (b : Bool) : BitVec 1 := BitVec.ofBool b

/-- The interrupt output (10_state.md R42). -/
def irqLevel (s : State) : Bool := (s.ieDone && s.done) || (s.ieErr && s.err)

/-- The code of a recorded error (60_exceptions.md R300). -/
def codeBits : Option Error → BitVec 4
  | none => 0
  | some .illegalCmd => 1
  | some .invalidSecret => 2
  | some .invalidEncoding => 3
  | some .keyOverflow => 4
  | some .noDigest => 5
  | some .cmdOverrun => 6

/-- The CTRL register, its fields laid out by bit position (10_state.md R36). -/
def ctrlRegister (s : State) : Word := 0#29 ++ bit s.ieErr ++ bit s.ieDone ++ bit s.strict

/-- The STATUS register, its fields laid out by bit position (10_state.md R37). -/
def statusRegister (s : State) : Word :=
  0#21 ++ bit (irqLevel s) ++ bit s.cv ++ bit s.dv ++ codeBits s.errcode ++ 0#1 ++ bit s.err ++ bit s.done ++ bit s.busy

/-- The register map of 20_memory.md R64, each word as its bytes and fields laid side by side. -/
def registerMap (s : State) : List (BitVec 8 × Word) := [
  (0x00, 0),
  (0x04, ctrlRegister s),
  (0x08, statusRegister s),
  (0x0C, 0#25 ++ BitVec.ofNat 7 s.keylen.val),
  (0x10, s.ctr.extractLsb' 32 32),
  (0x14, s.ctr.extractLsb' 0 32),
  (0x18, s.digest[0] ++ s.digest[1] ++ s.digest[2] ++ s.digest[3]),
  (0x1C, s.digest[4] ++ s.digest[5] ++ s.digest[6] ++ s.digest[7]),
  (0x20, s.digest[8] ++ s.digest[9] ++ s.digest[10] ++ s.digest[11]),
  (0x24, s.digest[12] ++ s.digest[13] ++ s.digest[14] ++ s.digest[15]),
  (0x28, s.digest[16] ++ s.digest[17] ++ s.digest[18] ++ s.digest[19]),
  (0x2C, 0#1 ++ s.trunc),
  (0x30, 0#28 ++ s.offset),
  (0x34, 0#12 ++ BitVec.ofNat 20 s.codeNum.val),
  (0x38, s.code[0] ++ s.code[1] ++ s.code[2] ++ s.code[3]),
  (0x3C, s.code[4] ++ s.code[5] ++ 0#16),
  (0x40, s.eoutC0 ++ s.eoutC1 ++ 0#14 ++ BitVec.ofNat 2 s.eoutN.val),
  (0x44, 0#12 ++ BitVec.ofNat 4 s.ecnt.val ++ 0#3 ++ s.eacc),
  (0x48, 0#12 ++ BitVec.ofNat 4 s.doutDrop.val ++ 0#5 ++ bit s.doutPadc ++ bit s.doutSkip ++ bit s.doutV ++ s.doutByte),
  (0x4C, 0#11 ++ bit s.dpad ++ BitVec.ofNat 4 s.dcnt.val ++ 0#4 ++ s.dacc),
  (0x50, 0x4F545031)]

/-! ## SHA-1 -/

/-- The 8 bytes of a 64-bit value, the most significant first: byte k is bits 63−8k to 56−8k (00_scope.md R11,
20_memory.md R68). -/
def bigEndian64 (x : BitVec 64) : List Byte := [
  x.extractLsb' 56 8, x.extractLsb' 48 8, x.extractLsb' 40 8, x.extractLsb' 32 8,
  x.extractLsb' 24 8, x.extractLsb' 16 8, x.extractLsb' 8 8, x.extractLsb' 0 8]

/-- f_t, by the table of 43_hmac_sha1.md R233. -/
def roundFunction (t : Nat) (b c d : Word) : Word :=
  match t / 20 with
  | 0 => (b &&& c) ^^^ (~~~b &&& d)
  | 2 => (b &&& c) ^^^ (b &&& d) ^^^ (c &&& d)
  | _ => b ^^^ c ^^^ d

/-- K_t, by the table of R234. -/
def roundConstant (t : Nat) : Word :=
  match t / 20 with
  | 0 => 0x5A827999
  | 1 => 0x6ED9EBA1
  | 2 => 0x8F1BBCDC
  | _ => 0xCA62C1D6

/-- The body of the loop of R236 in round `t`, with schedule word `w`. -/
def sha1Step (t : Nat) (w : Word) (v : HashWords) : HashWords where
  a := v.a.rotateLeft 5 + roundFunction t v.b v.c v.d + v.e + roundConstant t + w
  b := v.a
  c := v.b.rotateLeft 30
  d := v.c
  e := v.d

/-- A key of at most 64 bytes filled with zero bytes to 64, each byte XORed with `x` (R239). -/
def maskedKey (k : List Byte) (x : Byte) : List Byte := (List.range 64).map fun i => k.getD i 0 ^^^ x

/-! ## Base32 text -/

/-- ALPHABET[i] as an ASCII code, by the formula of 10_state.md R35. -/
def symbolCode (i : Nat) : Byte := BitVec.ofNat 8 (if i < 26 then 0x41 + i else 0x32 + (i - 26))

/-- The bits of a byte string, most significant bit of the first byte first (20_memory.md R70). -/
def bitstream (bytes : List Byte) : List Bool := bytes.flatMap fun b => (List.range 8).map fun j => b.getMsbD j

/-- The value of a group of bits, the first the most significant. -/
def groupValue (bits : List Bool) : Nat := bits.foldl (fun n b => 2 * n + b.toNat) 0

/-- The Base32 text of a byte string, by the definition: the bitstream in 5-bit groups, the last filled with zero bits on
the right, each group the index of a symbol (41_base32.md R155, 90_conflicts.md C1). -/
def base32Text (bytes : List Byte) : List Byte :=
  (List.range ((8 * bytes.length + 4) / 5)).map fun g =>
    symbolCode (groupValue ((List.range 5).map fun j => (bitstream bytes).getD (5 * g + j) false))

/-! ## Running commands -/

/-- Perform commands one after the other, each completed before the next; what `view` shows after each is collected. -/
def runCommands (view : State → List Byte) : List Instr → State → Option (List Byte × State)
  | [], s => some ([], s)
  | i :: is, s =>
    match exec i s with
    | .next t => (runCommands view is t).map fun r => (view t ++ r.1, r.2)
    | _ => none

/-- The characters the last encoder command emitted (41_base32.md R151). -/
def emitted (s : State) : List Byte := [s.eoutC0, s.eoutC1].take s.eoutN.val

/-- The byte the last decoder command produced, if any (10_state.md R34). -/
def produced (s : State) : List Byte := if s.doutV then [s.doutByte] else []

/-- The commands of a listing, in order, its waits, reads and writes left out (30_encoding.md R103). -/
def commandsOf (listing : List HostAction) : List Instr :=
  listing.filterMap fun
    | .cmd i => some i
    | .issue i => some i
    | .wait => none
    | .wr _ _ => none
    | .rd _ => none

/-- The commands that encode a byte string (41_base32.md R155). -/
def encodeCommands (bytes : List Byte) : List Instr := .b32eClr :: bytes.map .b32eByte ++ [.b32eFin]

/-- The commands that decode a text (41_base32.md R165). -/
def decodeCommands (text : List Byte) : List Instr := .b32dClr :: text.map (.b32dChar false) ++ [.b32dFin]

/-- The commands that load a secret (42_key_counter.md R202). -/
def loadSecret (bytes : List Byte) : List Instr := .keyClr :: bytes.map .keyByte

/-- The commands that load the counter (30_encoding.md R104, CTR_SET). -/
def loadCounter (c : Counter) : List Instr := [
  .ctrLd 3 (c.extractLsb' 48 16), .ctrLd 2 (c.extractLsb' 32 16),
  .ctrLd 1 (c.extractLsb' 16 16), .ctrLd 0 (c.extractLsb' 0 16)]

/-- The source's `Compute` (44_truncation.md R270–R273, R277) on a digest given as a list of bytes: the big-endian value
of the four bytes at the offset in the low nibble of the last byte, modulo 2^31, modulo 10^6. -/
def computeCode (digest : List Byte) : Nat :=
  let o := (digest.getD 19 0).toNat % 16
  let v := (digest.getD o 0).toNat * 2 ^ 24 + (digest.getD (o + 1) 0).toNat * 2 ^ 16
    + (digest.getD (o + 2) 0).toNat * 2 ^ 8 + (digest.getD (o + 3) 0).toNat
  v % 2 ^ 31 % 1000000

end Sys2Proof.Claims
end

