-- ==== Sys2Proof/Certificates/Slice0/Obligations.lean ====
section
/-!
DEFINITION. The statements about the OTP hash block that the provers settle. Each docstring names the rule of spec/ it
formalises; `finished`, `failed`, `started` and the rest of the vocabulary stand in Sys2Proof/Safety.lean.
-/

open Sys2Proof Sys2Proof.Machine Sys2Proof.Claims

/-! ## Encoding (30_encoding.md) -/

/-- Words written out bit by bit from R98 decode to the commands they stand for, and words of R100 to ILLEGAL. -/
def Obligations.SampleWordsDecode : Prop :=
  decode 0b00000000000000000000000000000000 = .ok .nop ∧
  decode 0b00000001000000000000000000000000 = .ok .srst ∧
  decode 0b00000010000000000000000000000000 = .ok .errClr ∧
  decode 0b00010000000000000000000000000000 = .ok .keyClr ∧
  decode 0b00010001000000000000000000110001 = .ok (.keyByte 0x31) ∧
  decode 0b00011000000000110000001000110101 = .ok (.ctrLd 3 0x0235) ∧
  decode 0b00011001000000001000000000000000 = .ok (.ctrAddi 0x8000) ∧
  decode 0b00100001000000000000000000000000 = .ok .dtrunc ∧
  decode 0b00110001000000000000000001100110 = .ok (.b32eByte 0x66) ∧
  decode 0b00111001000000000000000101001101 = .ok (.b32dChar true 0x4D) ∧
  decode 0b00111001000000000000000001001101 = .ok (.b32dChar false 0x4D) ∧
  decode 0b00111010000000000000000000000000 = .ok .b32dFin ∧
  decode 0b00000001000000000000000000000001 = .error .mustBeZeroBit ∧
  decode 0b00111011000000000000000000000000 = .error .unassignedOp

/-- Decoding the encoding of a command gives the command back, with every operand (R92–R99). -/
def Obligations.DecodeOfEncodeIsIdentity : Prop :=
  ∀ i : Instr, i.wf = true → decode (encode i) = .ok i

/-- A word that decodes to a command is that command's encoding: each command has one word (R92–R99). -/
def Obligations.EncodeOfDecodeIsIdentity : Prop :=
  ∀ (w : Word) (i : Instr), decode w = .ok i → encode i = w

/-- R98: no word selects two rows of the opcode map. -/
def Obligations.OpcodeRowsAreDisjoint : Prop :=
  opTable.length = 16 ∧
    opTable.Pairwise fun r r' => ∀ w : Word, ¬ (w &&& r.mask = r.pattern ∧ w &&& r'.mask = r'.pattern)

/-- R100: a word is illegal exactly when its OP is none of the 16 of R98, or is one and a bit its format requires to be
0 is 1 (formats of R92–R96). -/
def Obligations.IllegalWordsAreTheReserved : Prop :=
  ∀ w : Word,
    let op := w.extractLsb' 24 8
    let noOperand := op ∈ [0x00#8, 0x01#8, 0x02#8, 0x10#8, 0x20#8, 0x21#8, 0x22#8, 0x30#8, 0x32#8, 0x38#8, 0x3A#8]
    let reservedSet :=
      (noOperand ∧ w.extractLsb' 0 24 ≠ 0)
      ∨ ((op = 0x11 ∨ op = 0x31) ∧ w.extractLsb' 8 16 ≠ 0)
      ∨ (op = 0x39 ∧ w.extractLsb' 9 15 ≠ 0)
      ∨ (op = 0x18 ∧ w.extractLsb' 18 6 ≠ 0)
      ∨ (op = 0x19 ∧ w.extractLsb' 16 8 ≠ 0)
    (decode w = .error .unassignedOp ↔
      ¬ noOperand ∧ op ≠ 0x11 ∧ op ≠ 0x31 ∧ op ≠ 0x39 ∧ op ≠ 0x18 ∧ op ≠ 0x19)
    ∧ (decode w = .error .mustBeZeroBit ↔ reservedSet)

/-- R102: a command line is assembled exactly when its operands are in range, and to the command that reads back as it.
An out-of-range operand assembles to nothing. -/
def Obligations.AssemblyAcceptsExactlyTheRanges : Prop :=
  ∀ (l : AsmLine) (i : Instr), l.assemble = some i ↔ (l.wf = true ∧ i.asmLine = l)

/-! ## Steps, issue and completion (40_control.md, 20_memory.md R73) -/

/-- At the engine's turn, with the reset input released and a command pending, the step is the meaning of the command its
word decodes to, from the state with the turn taken off the schedule. -/
def Obligations.StepRunsThePendingCommand : Prop :=
  ∀ (s : State) (p : Pending) (i : Instr), s.bus.resetPin = false → EngineNext s → s.pend = some p →
    decode p.word = .ok i → step s = exec i (started s)

/-- SRST is performed at its CMD write, whatever else the state holds (R126, R101), and gives the reset values of
10_state.md R44 except that CTRL keeps its value. 0x01000000 is its only encoding: a word with OP = 0x01 and another bit
set is illegal (R101). -/
def Obligations.SrstRunsAtItsWrite : Prop :=
  (∀ s : State, s.bus.resetPin = false → HostNext s (writeAt 0x00 0x01000000) →
    step s = exec .srst (started s) ∧
    step s = .next { State.reset with
      strict := s.strict, ieDone := s.ieDone, ieErr := s.ieErr, bus := (started s).bus }) ∧
  (∀ w : Word, decode w = .ok .srst ↔ w = 0x01000000) ∧
  (∀ w : Word, w.extractLsb' 24 8 = 0x01 → w.extractLsb' 0 24 ≠ 0 → decode w = .error .mustBeZeroBit)

/-- The word placed by `withFetchWord` is what the next step runs: the model's own interface (log 7). -/
def Obligations.PlacedWordRunsNext : Prop :=
  ∀ (s : State) (i : Instr),
    let u := { s with bus := { s.bus with resetPin := false } }
    step (s.withFetchWord 32 (encode i).toNat) =
      if i = .srst then exec i u
      else exec i { u with pend := some ⟨encode i, s.strict⟩, busy := true, done := false }

/-- R120 and R121: what a host write of a word to CMD does, in every state. -/
def Obligations.CommandWriteRule : Prop :=
  ∀ (s : State) (w : Word), s.bus.resetPin = false → HostNext s (writeAt 0x00 w) →
    let u := started s
    (w = 0x01000000 → step s = exec .srst u) ∧
    (w ≠ 0x01000000 → s.busy = true →
      step s = .next (if s.err then u else { u with err := true, errcode := some .cmdOverrun })) ∧
    (w ≠ 0x01000000 → s.busy = false → s.err = true →
      w.extractLsb' 24 8 ≠ 0x00 → w.extractLsb' 24 8 ≠ 0x02 → step s = .next u) ∧
    (w ≠ 0x01000000 → s.busy = false →
      (s.err = false ∨ w.extractLsb' 24 8 = 0x00 ∨ w.extractLsb' 24 8 = 0x02) →
      step s = .next { u with pend := some ⟨w, s.strict⟩, busy := true, done := false })

/-- R303 and R302: a pending word that decodes to ILLEGAL completes with ILLEGAL_CMD and changes nothing else. With PEND
empty the engine is not enabled (R123), and its turn changes nothing. -/
def Obligations.EngineTurnOnIllegalOrNothing : Prop :=
  ∀ s : State, s.bus.resetPin = false → EngineNext s →
    (∀ p r, s.pend = some p → decode p.word = .error r → step s = .next (failed .illegalCmd (started s))) ∧
    (s.pend = none → step s = .next (started s))

/-- R302: a command that raises an error changes nothing but STATUS.ERR, ERRCODE, BUSY, DONE and PEND, and still sets
BUSY to 0 and DONE to 1. It raises one exactly when it leaves ERR set from the same state with no error recorded; an
error recorded before it is kept (R301). -/
def Obligations.FailingCommandChangesOnlyStatus : Prop :=
  ∀ (i : Instr) (s t : State), exec i { s with err := false, errcode := none } = .next t → t.err = true →
    ∃ e, exec i s = .next (failed e s)

/-- R301: while an error is recorded no step changes its code, and only ERR_CLR, SRST and reset clear it. -/
def Obligations.FirstErrorIsKept : Prop :=
  ∀ s t : State, step s = .next t → s.err = true →
    (t.err = true → t.errcode = s.errcode) ∧
    (t.err = false → Performs s .errClr ∨ Performs s .srst ∨ s.bus.resetPin = true ∨ t.bus.resetPin = true)

/-- R315, R350 and R124 with the model's schedule (log 1). First: when every scheduled access is admitted, the machine runs
through the schedule and the engine's turn after it, and then no command is pending. Second: when only admitted accesses
other than the CMD write of SRST come before the engine's turn, the pending command is untouched until that turn, and that
turn performs it, or raises ILLEGAL_CMD when its word is illegal. Before it nothing changes but CTRL, the error fields (by an
overrun, which does not stop the command) and the bus record. -/
def Obligations.PendingCommandCompletes : Prop :=
  (∀ s : State, StatusInv s → (∀ a, Turn.host a ∈ s.bus.turns → Admitted a) →
    ∃ t, Host.Core.run Sys2Proof.core (s.bus.turns.length + 1) s = .next t ∧ t.pend = none ∧ t.busy = false) ∧
  (∀ (s : State) (p : Pending) (before after : List Turn), StatusInv s → s.bus.resetPin = false → s.pend = some p →
    s.bus.turns = before ++ after → (after = [] ∨ after.head? = some .engine) →
    (∀ u ∈ before, ∃ a, u = .host a ∧ Admitted a ∧ a ≠ writeAt 0x00 0x01000000) →
    ∃ t, Host.Core.run Sys2Proof.core before.length s = .next t ∧ t.bus.turns = after ∧
      t = { s with
        strict := t.strict, ieDone := t.ieDone, ieErr := t.ieErr, err := t.err, errcode := t.errcode, bus := t.bus } ∧
      Host.Core.run Sys2Proof.core (before.length + 1) s =
        match decode p.word with
        | .ok i => exec i (started t)
        | .error _ => .next (failed .illegalCmd (started t)))

/-- R39 and R74: bit 0 of what a read of STATUS returns is 1 exactly when a command is pending at that step. What a read
returns stands in the model's read log (log 3). -/
def Obligations.StatusReadTellsPending : Prop :=
  ∀ s : State, StatusInv s → s.bus.resetPin = false → HostNext s (readAt 0x08) →
    ∃ t v, step s = .next t ∧ t.bus.readLog = (0x08, v) :: s.bus.readLog ∧ v.getLsbD 0 = s.pend.isSome

/-- A command line of a listing (R103) at an idle block without an error: however many polls `lat` of STATUS come before
the completion, running its turns gives what the meaning gives from the accepted command, but for the bus record. -/
def Obligations.CommandLineRunsTheCommand : Prop :=
  ∀ (s : State) (i : Instr) (lat : Nat), i ≠ .srst → s.bus.resetPin = false → s.busy = false → s.err = false →
    s.bus.turns = (HostAction.cmd i).turns lat →
    ∃ t u, exec i { s with pend := some ⟨encode i, s.strict⟩, busy := true, done := false } = .next t ∧
      Host.Core.run Sys2Proof.core (lat + 3) s = .next u ∧ u = { t with bus := u.bus } ∧ u.bus.turns = []

/-! ## The port (20_memory.md, 10_state.md §3) -/

/-- R66: an access that is not an aligned 32-bit access with all byte lanes is refused, and every other one is
performed. -/
def Obligations.OnlyAdmittedAccessesArePerformed : Prop :=
  ∀ (s : State) (a : Access), HostNext s a →
    (Admitted a → ∃ t, step s = .next t) ∧ (¬ Admitted a → ∃ r, step s = .refused r)

/-- R62, R64 and R65: while BUSY = 0 a read returns the value the register map gives its offset, and 0 at any other
offset; it changes no element of the state. What a read returns stands in the model's read log (log 3). -/
def Obligations.ReadReturnsTheRegisterMap : Prop :=
  ∀ (s : State) (off : BitVec 8), s.bus.resetPin = false → s.busy = false → off.toNat % 4 = 0 → HostNext s (readAt off) →
    ∃ v, step s = .next { s with bus := { (started s).bus with readLog := (off, v) :: s.bus.readLog } } ∧
      ((off, v) ∈ registerMap s ∨ ((∀ e ∈ registerMap s, e.1 ≠ off) ∧ v = 0))

/-- R318: while BUSY = 1 a read of any register but CTRL, STATUS and ID returns a fresh draw, and those three return
their values; the read changes no element of the state. That the draw is the opaque `Config.busyRead` at the counter
`bus.draws` is the model's choice (log 2), and so is the read log (log 3). Nothing is said of what a draw is. -/
def Obligations.BusyReadIsADraw : Prop :=
  ∀ (s : State) (off : BitVec 8), s.bus.resetPin = false → s.busy = true → off.toNat % 4 = 0 → HostNext s (readAt off) →
    (off ≠ 0x04 → off ≠ 0x08 → off ≠ 0x50 →
      step s = .next { s with bus := { (started s).bus with
        readLog := (off, Config.busyRead s.bus.draws) :: s.bus.readLog, draws := s.bus.draws + 1 } }) ∧
    (off = 0x04 ∨ off = 0x08 ∨ off = 0x50 →
      ∃ v, (off, v) ∈ registerMap s ∧
        step s = .next { s with bus := { (started s).bus with readLog := (off, v) :: s.bus.readLog } })

/-- R63, R36, R38 and R65: a write to CTRL takes its three fields, at any time; a write to STATUS clears DONE when bit 1
is set and does nothing else; a write to any offset but those and CMD is ignored. -/
def Obligations.WritesBesideCmd : Prop :=
  ∀ (s : State) (off : BitVec 8) (v : Word), s.bus.resetPin = false → off.toNat % 4 = 0 → off ≠ 0x00 →
    HostNext s (writeAt off v) →
    step s = .next (
      if off = 0x04 then { started s with strict := v.getLsbD 0, ieDone := v.getLsbD 1, ieErr := v.getLsbD 2 }
      else if off = 0x08 then { started s with done := s.done && !v.getLsbD 1 }
      else started s)

/-- R60: the host address BASE + off reaches the register at `off`, and an address outside the window reaches none. -/
def Obligations.WindowStartsAtBase : Prop :=
  (∀ (off : BitVec 8) (width : Width) (lanes : BitVec 4) (dir : Direction),
    accessAt (Config.base + off.toNat) width lanes dir = some ⟨off, width, lanes, dir⟩) ∧
  (∀ (addr : Nat) (width : Width) (lanes : BitVec 4) (dir : Direction),
    addr < Config.base ∨ Config.base + 256 ≤ addr → accessAt addr width lanes dir = none)

/-- R23: no read of the port depends on the key bytes: two states that differ only in KEY return the same values to the
host at every step, and agree on which accesses are refused. -/
def Obligations.KeyBytesAreUnreadable : Prop :=
  ∀ (s : State) (k : Vector Byte 64),
    match step s, step { s with key := k } with
    | .next t, .next t' => t'.bus = t.bus
    | .refused r, .refused r' => r = r'
    | _, _ => False

/-- R340: while the reset input is asserted, and at the step that asserts or releases it, every element of the state takes
its reset value. -/
def Obligations.ResetInputHoldsReset : Prop :=
  ∀ s t : State, step s = .next t → (s.bus.resetPin = true ∨ t.bus.resetPin = true) →
    t = { State.reset with bus := t.bus }

/-- R312 and R42: the level of IRQ, and STATUS[10], follow DONE and ERR as CTRL enables them; masking a source keeps its
pending bit, and enabling it again raises IRQ at once. -/
def Obligations.IrqFollowsEnabledSources : Prop :=
  ∀ (s : State) (v : Word), s.bus.resetPin = false → HostNext s (writeAt 0x04 v) →
    ∃ t, step s = .next t ∧ t.done = s.done ∧ t.err = s.err ∧
      t.irq = ((v.getLsbD 1 && s.done) || (v.getLsbD 2 && s.err)) ∧ (regValue t 0x08).getLsbD 10 = t.irq

/-! ## Control commands (40_control.md) -/

/-- R125: NOP does nothing but complete; its word is 0x00000000, and ILLEGAL_CMD is raised when another bit is set. -/
def Obligations.NopOnlyCompletes : Prop :=
  (∀ s : State, exec .nop s = .next (finished s)) ∧ CompletesAs 0x00 0x00FFFFFF (fun _ => .nop)

/-- R126, R342: SRST gives the reset values, CTRL kept; the IRQ output is then 0 whatever CTRL holds. -/
def Obligations.SrstResetsAllButCtrl : Prop :=
  ∀ s : State, ∃ t, exec .srst s = .next t ∧
    t = { State.reset with strict := s.strict, ieDone := s.ieDone, ieErr := s.ieErr, bus := s.bus } ∧ t.irq = false

/-- R127: ERR_CLR clears ERR and ERRCODE, and undoes nothing; with a must-be-0 bit set it is ILLEGAL_CMD, and an error
recorded before stays. -/
def Obligations.ErrClrClearsTheError : Prop :=
  (∀ s : State, exec .errClr s = .next { finished s with err := false, errcode := none }) ∧
    CompletesAs 0x02 0x00FFFFFF (fun _ => .errClr)

/-! ## Key buffer and counter (42_key_counter.md) -/

/-- R200: KEY_CLR zeroes the 64 key bytes and KEYLEN, and changes nothing else. -/
def Obligations.KeyClrEmptiesTheBuffer : Prop :=
  (∀ s : State, exec .keyClr s = .next { finished s with key := Vector.replicate 64 0, keylen := 0 }) ∧
    CompletesAs 0x10 0x00FFFFFF (fun _ => .keyClr)

/-- R201: KEY_BYTE appends the byte while KEYLEN < 64, and raises KEY_OVERFLOW when KEYLEN = 64. -/
def Obligations.KeyByteAppendsOrOverflows : Prop :=
  (∀ (s : State) (b : Byte),
    (s.keylen.val < 64 → ∃ t, exec (.keyByte b) s = .next t ∧
      t = { finished s with key := t.key, keylen := t.keylen } ∧ t.keylen.val = s.keylen.val + 1 ∧
      ∀ i : Fin 64, t.key[i] = if i.val = s.keylen.val then b else s.key[i]) ∧
    (s.keylen.val = 64 → exec (.keyByte b) s = .next (failed .keyOverflow s))) ∧
  CompletesAs 0x11 0x00FFFF00 (fun w => .keyByte (w.extractLsb' 0 8))

/-- R202: after KEY_CLR and KEY_BYTE for each byte of a string of at most 64 bytes, performed by `exec` in order, the Secret
is that string. -/
def Obligations.LoadedSecretIsTheString : Prop :=
  ∀ (s : State) (bytes : List Byte), bytes.length ≤ 64 →
    ∃ t, runCommands (fun _ => []) (loadSecret bytes) s = some ([], t) ∧
      t.keylen.val = bytes.length ∧ t.key.toList.take t.keylen.val = bytes ∧ KeyInv t ∧
      t = { finished s with key := t.key, keylen := t.keylen }

/-- R203: CTR_LD replaces one 16-bit lane of CTR and leaves the other three. -/
def Obligations.CtrLdReplacesOneLane : Prop :=
  (∀ (s : State) (lane : BitVec 2) (imm : BitVec 16), ∃ t, exec (.ctrLd lane imm) s = .next t ∧
    t = { finished s with ctr := t.ctr } ∧
    ∀ l : Fin 4, t.ctr.extractLsb' (16 * l.val) 16 =
      if l.val = lane.toNat then imm else s.ctr.extractLsb' (16 * l.val) 16) ∧
  CompletesAs 0x18 0x00FC0000 (fun w => .ctrLd (w.extractLsb' 16 2) (w.extractLsb' 0 16))

/-- R204: CTR_ADDI adds the signed 16-bit constant to CTR modulo 2^64. -/
def Obligations.CtrAddiAddsSigned : Prop :=
  (∀ (s : State) (imm : BitVec 16), ∃ t, exec (.ctrAddi imm) s = .next t ∧
    t = { finished s with ctr := t.ctr } ∧ (t.ctr.toNat : Int) = ((s.ctr.toNat : Int) + imm.toInt) % 2 ^ 64) ∧
  CompletesAs 0x19 0x00FF0000 (fun w => .ctrAddi (w.extractLsb' 0 16))

/-- R104: performed by `exec` in order, the commands CTR_SET expands to leave the 64-bit value in CTR, and those of CTR_INC
and CTR_DEC add and subtract 1 modulo 2^64. -/
def Obligations.CtrSetLoadsTheCounter : Prop :=
  (∀ (s : State) (c : Counter),
    runCommands (fun _ => []) (commandsOf (Pseudo.ctrSet c).expand) s = some ([], { finished s with ctr := c })) ∧
  (∀ s : State,
    runCommands (fun _ => []) (commandsOf Pseudo.ctrInc.expand) s = some ([], { finished s with ctr := s.ctr + 1 }) ∧
    runCommands (fun _ => []) (commandsOf Pseudo.ctrDec.expand) s = some ([], { finished s with ctr := s.ctr - 1 }))

/-! ## HMAC-SHA1 (43_hmac_sha1.md) -/

/-- R235: the message schedule is the 16 big-endian words of the block, then the recurrence. -/
def Obligations.MessageScheduleRecurrence : Prop :=
  ∀ B : List Byte, B.length = 64 →
    (schedule B).length = 80 ∧
    (∀ t, t < 16 → (schedule B)[t]? =
      some (B.getD (4 * t) 0 ++ B.getD (4 * t + 1) 0 ++ B.getD (4 * t + 2) 0 ++ B.getD (4 * t + 3) 0)) ∧
    (∀ t, 16 ≤ t → t < 80 → (schedule B)[t]? = some
      (((schedule B).getD (t - 3) 0 ^^^ (schedule B).getD (t - 8) 0 ^^^ (schedule B).getD (t - 14) 0
        ^^^ (schedule B).getD (t - 16) 0).rotateLeft 1))

/-- R237: pad(M) is M, one byte 0x80, z zero bytes and the bit length as 8 big-endian bytes, where z is the least number
with ℓ + 1 + z ≡ 56 (mod 64); it is a whole number of 64-byte blocks. -/
def Obligations.PaddingIsWholeBlocks : Prop :=
  ∀ M : List Byte, ∃ z : Nat,
    sha1Pad M = M ++ [0x80] ++ List.replicate z 0 ++ bigEndian64 (BitVec.ofNat 64 (8 * M.length)) ∧
    (M.length + 1 + z) % 64 = 56 ∧ (∀ z', (M.length + 1 + z') % 64 = 56 → z ≤ z') ∧
    (sha1Pad M).length % 64 = 0

/-- R240: the core's fixed plan of four compressions computes HMAC_SHA1 of the counter's 8 bytes, for every key of 1 to
64 bytes and every counter. -/
def Obligations.FixedPlanIsHmac : Prop :=
  ∀ (k : List Byte) (ctr : Counter), 1 ≤ k.length → k.length ≤ 64 → hmacPlan k ctr = hmacSha1 k (bigEndian64 ctr)

/-- R239: keys that differ only by trailing zero bytes have the same HMAC. -/
def Obligations.TrailingZeroKeyBytesDoNotMatter : Prop :=
  ∀ (k m : List Byte) (n : Nat), k.length + n ≤ 64 → hmacSha1 (k ++ List.replicate n 0) m = hmacSha1 k m

/-- R241: with a secret, HMAC writes the 20-byte keyed digest of the counter and DV, and changes nothing else but its
completion; with KEYLEN = 0 it raises INVALID_SECRET. -/
def Obligations.HmacWritesTheDigest : Prop :=
  (∀ s : State,
    (s.keylen.val ≠ 0 → ∃ t, exec .hmac s = .next t ∧ t = { finished s with digest := t.digest, dv := true } ∧
      t.digest.toList = hmacSha1 (s.key.toList.take s.keylen.val) (bigEndian64 s.ctr)) ∧
    (s.keylen.val = 0 → exec .hmac s = .next (failed .invalidSecret s))) ∧
  CompletesAs 0x20 0x00FFFFFF (fun _ => .hmac)

/-! ## Truncation (44_truncation.md) -/

/-- R275 with R270–R273: with DV = 1, DTRUNC writes the offset (low nibble of the last digest byte), the four bytes from
there big-endian without the sign bit, its remainder modulo 10^6 and the six decimal digits of that, and CV; nothing
else but its completion. With DV = 0 it raises NO_DIGEST. -/
def Obligations.DtruncTruncatesTheDigest : Prop :=
  (∀ s : State,
    (s.dv = true → ∃ t, exec .dtrunc s = .next t ∧
      t = { finished s with offset := t.offset, trunc := t.trunc, codeNum := t.codeNum, code := t.code, cv := true } ∧
      t.offset.toNat = s.digest[19].toNat % 16 ∧
      t.trunc = (s.digest.toList.getD t.offset.toNat 0).extractLsb' 0 7 ++ s.digest.toList.getD (t.offset.toNat + 1) 0
        ++ s.digest.toList.getD (t.offset.toNat + 2) 0 ++ s.digest.toList.getD (t.offset.toNat + 3) 0 ∧
      t.codeNum.val = t.trunc.toNat % 1000000 ∧ allDigits t.code ∧ decimalValue t.code = t.codeNum.val) ∧
    (s.dv = false → exec .dtrunc s = .next (failed .noDigest s))) ∧
  CompletesAs 0x21 0x00FFFFFF (fun _ => .dtrunc)

/-- R276: HOTP completes with the state that HMAC followed by DTRUNC leaves, in every element; with KEYLEN = 0 it raises
INVALID_SECRET. -/
def Obligations.HotpIsHmacThenDtrunc : Prop :=
  (∀ s : State,
    (s.keylen.val ≠ 0 → ∃ t u, exec .hmac s = .next t ∧ exec .dtrunc t = .next u ∧ exec .hotp s = .next u) ∧
    (s.keylen.val = 0 → exec .hotp s = .next (failed .invalidSecret s))) ∧
  CompletesAs 0x22 0x00FFFFFF (fun _ => .hotp)

/-- R277: loading a secret of 1 to 64 bytes and a counter, then HOTP, leaves the source's Compute of both in CODE_NUM and
its six decimal digits in CODE, from any state, and changes nothing but the key buffer, CTR and the hash unit's results and
their flags, beside the completion. The commands are performed by `exec`: at the port they would be discarded while ERR = 1
(R122). -/
def Obligations.HotpProgramComputesTheCode : Prop :=
  ∀ (s : State) (bytes : List Byte) (c : Counter), 1 ≤ bytes.length → bytes.length ≤ 64 →
    ∃ t, runCommands (fun _ => []) (loadSecret bytes ++ loadCounter c ++ [.hotp]) s = some ([], t) ∧
      t.codeNum.val = computeCode (hmacSha1 bytes (bigEndian64 c)) ∧ allDigits t.code ∧ decimalValue t.code = t.codeNum.val ∧
      t = { finished s with
        key := t.key, keylen := t.keylen, ctr := c, digest := t.digest, dv := true, offset := t.offset, trunc := t.trunc
        codeNum := t.codeNum, code := t.code, cv := true }

/-! ## Base32 encoder (41_base32.md §2) -/

/-- R152 and R154: B32E_CLR clears the encoder and its slots; B32E_FIN emits the symbol of the leftover bits, zero bits
appended on their right, when there are any, and clears the encoder. Neither changes anything else. -/
def Obligations.EncoderClearAndFlush : Prop :=
  (∀ s : State,
    exec .b32eClr s = .next { finished s with eacc := 0, ecnt := 0, eoutC0 := 0, eoutC1 := 0, eoutN := 0 } ∧
    (s.eacc.toNat < 2 ^ s.ecnt.val →
      exec .b32eFin s = .next { finished s with
        eacc := 0, ecnt := 0
        eoutC0 := if s.ecnt.val = 0 then 0 else symbolCode (s.eacc.toNat * 2 ^ (5 - s.ecnt.val))
        eoutC1 := 0
        eoutN := if s.ecnt.val = 0 then 0 else 1 })) ∧
  CompletesAs 0x30 0x00FFFFFF (fun _ => .b32eClr) ∧ CompletesAs 0x32 0x00FFFFFF (fun _ => .b32eFin)

/-- R153: with v the leftover bits followed by the byte and n their number, B32E_BYTE emits the symbols of the top 5-bit
groups of v and keeps the bits that are left; it changes nothing outside the encoder. -/
def Obligations.EncoderTakesOneByte : Prop :=
  (∀ (s : State) (b : Byte), s.eacc.toNat < 2 ^ s.ecnt.val →
    let v := s.eacc.toNat * 256 + b.toNat
    let n := s.ecnt.val + 8
    ∃ t, exec (.b32eByte b) s = .next t ∧
      t = { finished s with eacc := t.eacc, ecnt := t.ecnt, eoutC0 := t.eoutC0, eoutC1 := t.eoutC1, eoutN := t.eoutN } ∧
      t.ecnt.val = n % 5 ∧ t.eacc.toNat = v % 2 ^ (n % 5) ∧ t.eoutN.val = n / 5 ∧
      t.eoutC0 = symbolCode (v / 2 ^ (n - 5)) ∧
      t.eoutC1 = if n < 10 then 0 else symbolCode (v / 2 ^ (n - 10) % 32)) ∧
  CompletesAs 0x31 0x00FFFF00 (fun w => .b32eByte (w.extractLsb' 0 8))

/-- R155: the encoder's commands over a byte string, performed by `exec` from any state, emit its Base32 text, of length
⌈8n/5⌉. -/
def Obligations.EncodingEmitsTheBase32Text : Prop :=
  ∀ (s : State) (bytes : List Byte),
    ∃ t, runCommands emitted (encodeCommands bytes) s = some (base32Text bytes, t) ∧
      (base32Text bytes).length = (8 * bytes.length + 4) / 5 ∧ t.eacc = 0 ∧ t.ecnt = 0

/-! ## Base32 decoder (41_base32.md §3) -/

/-- R35 and R150: INDEX is the inverse of ALPHABET, defined exactly on its 32 codes, and norm folds the ASCII lower-case
letters and nothing else. -/
def Obligations.IndexInvertsAlphabet : Prop :=
  (∀ x : BitVec 5, symbol x = symbolCode x.toNat ∧ symbolIndex (symbol x) = some x) ∧
  (∀ c : Byte, ∀ x, symbolIndex c = some x → symbol x = c) ∧
  (∀ c : Byte, (symbolIndex c).isSome = inAlpha c) ∧
  (∀ c : Byte, normChar c = if 0x61 ≤ c.toNat ∧ c.toNat ≤ 0x7A then BitVec.ofNat 8 (c.toNat - 0x20) else c)

/-- R161 and R164: B32D_CLR clears the decoder and its result fields; B32D_FIN does too, and reports in DOUT_DROP how many
bits it discarded. Neither changes anything else. -/
def Obligations.DecoderClearAndFinish : Prop :=
  (∀ s : State,
    let cleared := { finished s with
      dacc := 0, dcnt := 0, dpad := false, doutByte := 0, doutV := false, doutSkip := false, doutPadc := false }
    exec .b32dClr s = .next { cleared with doutDrop := 0 } ∧ exec .b32dFin s = .next { cleared with doutDrop := s.dcnt }) ∧
  CompletesAs 0x38 0x00FFFFFF (fun _ => .b32dClr) ∧ CompletesAs 0x3A 0x00FFFFFF (fun _ => .b32dFin)

/-- R162 on a character of the alphabet with index `x` (folded first), under a policy that admits it: with v the leftover
bits followed by the index and n their number, fewer than 8 bits are kept and no byte is produced; from 8 bits on the
top 8 are the byte produced, and with K = 1 it is appended to KEY (R160). -/
def Obligations.DecoderTakesOneSymbol : Prop :=
  (∀ (s : State) (k : Bool) (c : Byte) (x : Nat), s.dacc.toNat < 2 ^ s.dcnt.val → x < 32 → normChar c = symbolCode x →
    (latchedStrict s = false ∨ s.dpad = false) →
    let v := s.dacc.toNat * 32 + x
    let n := s.dcnt.val + 5
    (n < 8 → ∃ t, exec (.b32dChar k c) s = .next t ∧ t = { finished s with
        dacc := t.dacc, dcnt := t.dcnt, doutByte := 0, doutV := false, doutSkip := false, doutPadc := false, doutDrop := 0 } ∧
      t.dacc.toNat = v ∧ t.dcnt.val = n) ∧
    (8 ≤ n → (k = true → s.keylen.val < 64) → ∃ t, exec (.b32dChar k c) s = .next t ∧ t = { finished s with
        key := t.key, keylen := t.keylen, dacc := t.dacc, dcnt := t.dcnt
        doutByte := BitVec.ofNat 8 (v / 2 ^ (n - 8)), doutV := true, doutSkip := false, doutPadc := false, doutDrop := 0 } ∧
      t.dacc.toNat = v % 2 ^ (n - 8) ∧ t.dcnt.val = n - 8 ∧
      (k = false → t.key = s.key ∧ t.keylen = s.keylen) ∧
      (k = true → t.keylen.val = s.keylen.val + 1 ∧
        ∀ i : Fin 64, t.key[i] = if i.val = s.keylen.val then BitVec.ofNat 8 (v / 2 ^ (n - 8)) else s.key[i])) ∧
    (8 ≤ n → k = true → s.keylen.val = 64 → exec (.b32dChar k c) s = .next (failed .keyOverflow s))) ∧
  CompletesAs 0x39 0x00FFFE00 (fun w => .b32dChar (w.getLsbD 8) (w.extractLsb' 0 8))

/-- R162 and R163 on any other character, and the strict policy: `=` is discarded and sets DPAD under both policies; a
character outside the alphabet is discarded under the permissive policy and raises INVALID_ENCODING under the strict one;
so does, under the strict one, a character of the alphabet after a `=`. -/
def Obligations.DecoderSkipsOrRejects : Prop :=
  ∀ (s : State) (k : Bool) (c : Byte),
    let skipped := { finished s with
      doutByte := 0, doutV := false, doutSkip := true, doutPadc := decide (c = 0x3D), doutDrop := 0 }
    (c = 0x3D → exec (.b32dChar k c) s = .next { skipped with dpad := true }) ∧
    (inAlpha (normChar c) = false → c ≠ 0x3D → latchedStrict s = false → exec (.b32dChar k c) s = .next skipped) ∧
    (inAlpha (normChar c) = false → c ≠ 0x3D → latchedStrict s = true →
      exec (.b32dChar k c) s = .next (failed .invalidEncoding s)) ∧
    (inAlpha (normChar c) = true → s.dpad = true → latchedStrict s = true →
      exec (.b32dChar k c) s = .next (failed .invalidEncoding s))

/-- R121: the STRICT bit held in PEND decides the policy of a pending B32D_CHAR, and CTRL as it stands does not. A CTRL write
in between changes nothing but CTRL; the latched bit decides between rejecting and skipping a character outside the
alphabet, and between rejecting a character of the alphabet after a `=` and decoding it as if no `=` had come before. -/
def Obligations.PolicyIsLatchedAtAcceptance : Prop :=
  ∀ (s : State) (p : Pending) (k : Bool) (c : Byte), s.pend = some p →
    latchedStrict s = p.strict ∧
    (∀ (t : State) (b : Bool), exec (.b32dChar k c) s = .next t →
      exec (.b32dChar k c) { s with strict := b } = .next { t with strict := b }) ∧
    (inAlpha (normChar c) = false → c ≠ 0x3D →
      exec (.b32dChar k c) s = .next (if p.strict then failed .invalidEncoding s else { finished s with
        doutByte := 0, doutV := false, doutSkip := true, doutPadc := false, doutDrop := 0 })) ∧
    (inAlpha (normChar c) = true → s.dpad = true →
      (p.strict = true → exec (.b32dChar k c) s = .next (failed .invalidEncoding s)) ∧
      (p.strict = false → ∃ u, exec (.b32dChar k c) { s with dpad := false } = .next u ∧
        exec (.b32dChar k c) s = .next { u with dpad := true }))

/-- R163: STRICT = 0, the permissive policy, never raises INVALID_ENCODING. -/
def Obligations.PermissiveNeverRejects : Prop :=
  ∀ (i : Instr) (s t : State), latchedStrict s = false → exec i s = .next t →
    t.errcode = some .invalidEncoding → s.errcode = some .invalidEncoding

/-- R166: decoding the text that encoding a byte string emitted gives the string back, the commands performed by `exec` from
any state. -/
def Obligations.DecodingUndoesEncoding : Prop :=
  ∀ (s : State) (bytes text : List Byte) (t : State),
    runCommands emitted (encodeCommands bytes) s = some (text, t) →
    ∃ u, runCommands produced (decodeCommands text) t = some (bytes, u) ∧
      u = { s with
        eacc := 0, ecnt := 0, eoutC0 := u.eoutC0, eoutC1 := u.eoutC1, eoutN := u.eoutN
        dacc := 0, dcnt := 0, dpad := false, doutByte := 0, doutV := false, doutSkip := false, doutPadc := false
        doutDrop := u.doutDrop, busy := false, done := true, pend := none }

/-- R160 with R104: the commands KEY_B32 expands to on the Base32 text of at most 64 bytes, performed by `exec` from any state,
load those bytes into the key buffer. -/
def Obligations.TextLoadsTheKey : Prop :=
  ∀ (s : State) (bytes : List Byte), bytes.length ≤ 64 →
    ∃ t, runCommands (fun _ => []) (commandsOf (Pseudo.keyB32 (base32Text bytes)).expand) s = some ([], t) ∧
      t.keylen.val = bytes.length ∧ t.key.toList.take t.keylen.val = bytes ∧ t.err = s.err

/-! ## The whole machine -/

/-- R22, the column "written by": an element of the state changes only at a step that performs what the table names for it, or
under reset. BUSY and PEND change by acceptance, completion and SRST; DONE also by a write-1-to-clear; ERR and ERRCODE by a
completion with an error, CMD_OVERRUN, ERR_CLR and SRST; CTRL by a host write to CTRL; every other element by the commands
named. -/
def Obligations.ElementsChangeOnlyAsTheTableSays : Prop :=
  ∀ s t : State, step s = .next t → s.bus.resetPin = false → t.bus.resetPin = false →
    ((t.key ≠ s.key ∨ t.keylen ≠ s.keylen) →
      Performs s .keyClr ∨ (∃ b, Performs s (.keyByte b)) ∨ (∃ c, Performs s (.b32dChar true c)) ∨ Performs s .srst) ∧
    (t.ctr ≠ s.ctr → (∃ l imm, Performs s (.ctrLd l imm)) ∨ (∃ imm, Performs s (.ctrAddi imm)) ∨ Performs s .srst) ∧
    ((t.digest ≠ s.digest ∨ t.dv ≠ s.dv) → Performs s .hmac ∨ Performs s .hotp ∨ Performs s .srst) ∧
    ((t.offset ≠ s.offset ∨ t.trunc ≠ s.trunc ∨ t.codeNum ≠ s.codeNum ∨ t.code ≠ s.code ∨ t.cv ≠ s.cv) →
      Performs s .dtrunc ∨ Performs s .hotp ∨ Performs s .srst) ∧
    ((t.eacc ≠ s.eacc ∨ t.ecnt ≠ s.ecnt ∨ t.eoutC0 ≠ s.eoutC0 ∨ t.eoutC1 ≠ s.eoutC1 ∨ t.eoutN ≠ s.eoutN) →
      Performs s .b32eClr ∨ (∃ b, Performs s (.b32eByte b)) ∨ Performs s .b32eFin ∨ Performs s .srst) ∧
    ((t.dacc ≠ s.dacc ∨ t.dcnt ≠ s.dcnt ∨ t.dpad ≠ s.dpad ∨ t.doutByte ≠ s.doutByte ∨ t.doutV ≠ s.doutV
        ∨ t.doutSkip ≠ s.doutSkip ∨ t.doutPadc ≠ s.doutPadc ∨ t.doutDrop ≠ s.doutDrop) →
      Performs s .b32dClr ∨ (∃ k c, Performs s (.b32dChar k c)) ∨ Performs s .b32dFin ∨ Performs s .srst) ∧
    ((t.strict ≠ s.strict ∨ t.ieDone ≠ s.ieDone ∨ t.ieErr ≠ s.ieErr) → ∃ v, HostNext s (writeAt 0x04 v)) ∧
    ((t.busy ≠ s.busy ∨ t.pend ≠ s.pend) → (∃ w, Accepts s w) ∨ Completes s ∨ Performs s .srst) ∧
    (t.done ≠ s.done → (∃ w, Accepts s w) ∨ Completes s ∨ (∃ v, HostNext s (writeAt 0x08 v) ∧ v.getLsbD 1 = true)
      ∨ Performs s .srst) ∧
    ((t.err ≠ s.err ∨ t.errcode ≠ s.errcode) → (Completes s ∧ s.err = false ∧ t.err = true) ∨ (∃ w, Overruns s w)
      ∨ Performs s .errClr ∨ Performs s .srst)

/-- R359 and R45: an encoder command and any command of another unit but SRST may be performed in either order, with the
same result. So may a decoder command with K = 0 and any command of another unit but SRST, the error fields apart: which
error is the first depends on the order when one of the two fails or clears the error (R301). -/
def Obligations.CodecIsIndependent : Prop :=
  (∀ (i j : Instr) (s t u t' u' : State), s.pend = none →
    (i = .b32eClr ∨ (∃ b, i = .b32eByte b) ∨ i = .b32eFin) →
    (j ≠ .srst ∧ j ≠ .b32eClr ∧ (∀ b, j ≠ .b32eByte b) ∧ j ≠ .b32eFin) →
    exec i s = .next t → exec j t = .next u → exec j s = .next t' → exec i t' = .next u' → u = u') ∧
  (∀ (i j : Instr) (s t u t' u' : State), s.pend = none →
    (i = .b32dClr ∨ (∃ c, i = .b32dChar false c) ∨ i = .b32dFin) →
    (j ≠ .srst ∧ j ≠ .b32dClr ∧ (∀ k c, j ≠ .b32dChar k c) ∧ j ≠ .b32dFin) →
    exec i s = .next t → exec j t = .next u → exec j s = .next t' → exec i t' = .next u' →
    u = { u' with err := u.err, errcode := u.errcode } ∧
    (s.err = false → t.err = false → t'.err = false → u = u'))

/-- R44: the values after hardware reset, as the host reads them: every register reads 0 but ID; the key is zeroed, and no
command is pending. -/
def Obligations.ResetValues : Prop :=
  (∀ off : BitVec 8, off ≠ 0x50 → regValue State.reset off = 0) ∧ regValue State.reset 0x50 = 0x4F545031 ∧
    (∀ i : Fin 64, State.reset.key[i] = 0) ∧ State.reset.pend = none

/-- The invariants hold at reset. -/
def Obligations.InvariantsHoldAtReset : Prop := Inv State.reset

/-- Every step keeps the invariants the spec states between commands: R23, R26, R29–R34, R39, R101, R305. -/
def Obligations.StepKeepsInvariants : Prop :=
  ∀ s t : State, Inv s → step s = .next t → Inv t

/-! ## The hash functions and the pseudo-instructions, by their definitions -/

/-- R232, R233, R234 and R236: SHA1_COMPRESS is 80 rounds from the hash value over the block's schedule (R235), each with the
round function and constant of its range, and the feed-forward; the initial hash value is that of R232. -/
def Obligations.CompressionIsSha1 : Prop :=
  hInit = ⟨0x67452301, 0xEFCDAB89, 0x98BADCFE, 0x10325476, 0xC3D2E1F0⟩ ∧
  ∀ (H : HashWords) (B : List Byte), B.length = 64 →
    ∃ v : Nat → HashWords, v 0 = H ∧ (∀ t, t < 80 → v (t + 1) = sha1Step t ((schedule B).getD t 0) (v t)) ∧
      sha1Compress H B = ⟨H.a + (v 80).a, H.b + (v 80).b, H.c + (v 80).c, H.d + (v 80).d, H.e + (v 80).e⟩

/-- R238 and R239: SHA-1 compresses the 64-byte blocks of the padded message in order from the initial hash value and answers
the five words big-endian, H[0] first; HMAC-SHA1 of a key of 1 to 64 bytes is SHA-1 over the key block under opad and the
SHA-1 of the key block under ipad and the message. -/
def Obligations.HmacIsBuiltOnSha1 : Prop :=
  (∀ M : List Byte, ∃ (h : Nat → HashWords) (r : HashWords), h 0 = hInit ∧ r = h ((sha1Pad M).length / 64) ∧
    (∀ j, j < (sha1Pad M).length / 64 → h (j + 1) = sha1Compress (h j) (((sha1Pad M).drop (64 * j)).take 64)) ∧
    sha1 M = [r.a, r.b, r.c, r.d, r.e].flatMap fun w =>
      [w.extractLsb' 24 8, w.extractLsb' 16 8, w.extractLsb' 8 8, w.extractLsb' 0 8]) ∧
  (∀ k m : List Byte, 1 ≤ k.length → k.length ≤ 64 →
    hmacSha1 k m = sha1 (maskedKey k 0x5C ++ sha1 (maskedKey k 0x36 ++ m)))

/-- R104: the expansion of every pseudo-instruction, each line a command line with its WAIT (`HostAction.cmd`, log 17), a read
of a register, or a write to one. -/
def Obligations.PseudoInstructionsExpand : Prop :=
  (∀ c : Counter, (Pseudo.ctrSet c).expand = (loadCounter c).map .cmd) ∧
  Pseudo.ctrInc.expand = [.cmd (.ctrAddi 0x0001)] ∧ Pseudo.ctrDec.expand = [.cmd (.ctrAddi 0xFFFF)] ∧
  (∀ bytes : List Byte, (Pseudo.keyLoad bytes).expand = (loadSecret bytes).map .cmd) ∧
  (∀ text : List Byte, (Pseudo.keyB32 text).expand =
    ([Instr.keyClr, .b32dClr] ++ text.map (Instr.b32dChar true) ++ [Instr.b32dFin]).map .cmd) ∧
  (∀ bytes : List Byte, (Pseudo.b32Enc bytes).expand =
    .cmd .b32eClr :: (bytes.map fun b => [.cmd (.b32eByte b), .rd 0x40]).flatten ++ [.cmd .b32eFin, .rd 0x40]) ∧
  (∀ text : List Byte, (Pseudo.b32Dec text).expand =
    .cmd .b32dClr :: (text.map fun c => [.cmd (.b32dChar false c), .rd 0x48]).flatten ++ [.cmd .b32dFin]) ∧
  Pseudo.clrDone.expand = [.wr 0x08 0x00000002]
end

