-- ==== Sys2Proof/Laws/Decode.lean ====
section
/-!
SUPPORT. The decoder as a choice among the rows of the opcode map: at most one row is selected, so a word decodes to a
command exactly when a row selects it, and is ILLEGAL exactly when none does (30_encoding.md R98, R99).
-/

namespace Sys2Proof

theorem OpRow.selects_iff (r : OpRow) (w : Word) : r.selects w = true ↔ w &&& r.mask = r.pattern := by
  simp [OpRow.selects]

/-- Two rows of which each has a pattern bit fixed by both masks where the patterns differ select no common word. -/
theorem OpRow.disjoint_of_patterns {r r' : OpRow} (h : r.pattern &&& r'.mask ≠ r'.pattern &&& r.mask) (w : Word) :
    ¬ (r.selects w = true ∧ r'.selects w = true) := by
  rintro ⟨h1, h2⟩
  rw [selects_iff] at h1 h2
  apply h
  rw [← h1, ← h2]
  ac_rfl

theorem opTable_patterns_differ : opTable.Pairwise fun r r' => r.pattern &&& r'.mask ≠ r'.pattern &&& r.mask := by
  decide

/-- A word selects at most one row. -/
theorem opTable_row_unique {r r' : OpRow} {w : Word} (hr : r ∈ opTable) (hr' : r' ∈ opTable)
    (h : r.selects w = true) (h' : r'.selects w = true) : r = r' := by
  by_contra hne
  have hsymm : Std.Symm fun a b : OpRow => a.pattern &&& b.mask ≠ b.pattern &&& a.mask := ⟨fun _ _ h => h.symm⟩
  exact OpRow.disjoint_of_patterns (opTable_patterns_differ.forall hr hr' hne) w ⟨h, h'⟩

/-- A word that selects a row decodes to that row's command. -/
theorem decode_of_selects {r : OpRow} {w : Word} (hr : r ∈ opTable) (h : r.selects w = true) :
    decode w = .ok (r.build w) := by
  unfold decode
  split
  · rename_i r' hf
    have hs : r'.selects w = true := by simpa using List.find?_some hf
    rw [opTable_row_unique (List.mem_of_find?_eq_some hf) hr hs h]
  · rename_i hf
    rw [List.find?_eq_none] at hf
    exact absurd h (by simpa using hf r hr)

/-- A word decodes to a command exactly when a row of the map selects it and builds the command from it. -/
theorem decode_ok_iff {w : Word} {i : Instr} :
    decode w = .ok i ↔ ∃ r ∈ opTable, r.selects w = true ∧ r.build w = i := by
  constructor
  · intro h
    unfold decode at h
    split at h
    · rename_i r hf
      exact ⟨r, List.mem_of_find?_eq_some hf, by simpa using List.find?_some hf, Except.ok.inj h⟩
    · exact absurd h (by simp)
  · rintro ⟨r, hr, hs, rfl⟩
    exact decode_of_selects hr hs

/-- A word is ILLEGAL exactly when no row selects it. -/
theorem decode_error_iff {w : Word} {e : Illegal} :
    decode w = .error e ↔ (∀ r ∈ opTable, r.selects w = false) ∧ illegalCase w = e := by
  unfold decode
  split
  · rename_i r hf
    constructor
    · intro h; exact absurd h (by simp)
    · rintro ⟨h, _⟩
      have := h r (List.mem_of_find?_eq_some hf)
      rw [show r.selects w = true by simpa using List.find?_some hf] at this
      cases this
  · rename_i hf
    rw [List.find?_eq_none] at hf
    constructor
    · intro h; exact ⟨fun r hr => by simpa using hf r hr, Except.error.inj h⟩
    · rintro ⟨_, rfl⟩; rfl

/-- A word with the opcode of a row is the row's command when the row's must-be-0 bits `zero` are 0 in it, and ILLEGAL by
R100(b) otherwise. -/
theorem decode_of_op {r : OpRow} {w zero : Word} (hr : r ∈ opTable) (hop : opField w = opField r.pattern)
    (hz : r.mask = 0xFF000000 ||| zero) (hp : r.pattern = opField r.pattern ++ 0#24)
    (hlow : zero &&& 0xFF000000 = 0) :
    decode w = if w &&& zero = 0 then .ok (r.build w) else .error .mustBeZeroBit := by
  have hmask : w &&& 0xFF000000 = opField w ++ 0#24 := by
    unfold opField
    apply BitVec.eq_of_getLsbD_eq
    intro i hi
    simp only [BitVec.getLsbD_and, BitVec.getLsbD_append, BitVec.getLsbD_extractLsb']
    interval_cases i <;> simp
  have hsel : r.selects w = true ↔ w &&& zero = 0 := by
    rw [OpRow.selects_iff, hz, hp, ← hop, BitVec.and_or_distrib_left, hmask]
    constructor
    · intro h
      have h2 := congrArg (· &&& zero) h
      simp only [BitVec.and_comm (_ ||| _) zero, BitVec.and_or_distrib_left] at h2
      rw [← hmask] at h2
      have e1 : zero &&& (w &&& 0xFF000000) = 0 := by
        rw [← BitVec.and_assoc, BitVec.and_comm zero w, BitVec.and_assoc, hlow]; simp
      have e2 : (w &&& 0xFF000000) &&& zero = 0 := by rw [BitVec.and_comm]; exact e1
      rw [e1, e2] at h2
      simpa [BitVec.and_comm zero, BitVec.and_assoc] using h2
    · intro h; rw [h]; simp
  split
  · rename_i h; exact decode_of_selects hr (hsel.2 h)
  · rename_i h
    refine decode_error_iff.2 ⟨fun r' hr' => ?_, ?_⟩
    · by_contra hs
      rw [Bool.not_eq_false, OpRow.selects_iff] at hs
      have hop' : opField w = opField r'.pattern := by
        have hk : ∀ q ∈ opTable, opField (q.mask) = 0xFF := by decide
        rw [← hs]
        unfold opField
        have := hk r' hr'
        unfold opField at this
        rw [BitVec.extractLsb'_and, this]
        exact (BitVec.and_allOnes (x := w.extractLsb' 24 8)).symm
      have hne : r'.mask = r.mask ∧ r'.pattern = r.pattern := by
        have : ∀ a ∈ opTable, ∀ b ∈ opTable, opField a.pattern = opField b.pattern →
          a.mask = b.mask ∧ a.pattern = b.pattern := by decide
        exact this r' hr' r hr (hop'.symm.trans hop)
      apply h
      apply hsel.1
      rw [OpRow.selects_iff, ← hne.1, ← hne.2]; exact hs
    · unfold illegalCase
      rw [if_pos]
      rw [hop]
      simp only [opAssigned, List.any_eq_true, beq_iff_eq]
      exact ⟨r, hr, rfl⟩

/-! ## The fixed bits of each format (R92–R96) -/

theorem formatN_masked (op : BitVec 8) : formatN op &&& 0xFFFFFFFF = op ++ 0#24 := by
  apply BitVec.eq_of_getLsbD_eq
  intro i hi
  simp only [formatN, BitVec.getLsbD_and, BitVec.getLsbD_append]
  interval_cases i <;> simp

theorem formatB_masked (op : BitVec 8) (byte : Byte) : formatB op byte &&& 0xFFFFFF00 = op ++ 0#24 := by
  apply BitVec.eq_of_getLsbD_eq
  intro i hi
  simp only [formatB, BitVec.getLsbD_and, BitVec.getLsbD_append]
  interval_cases i <;> simp

theorem formatD_masked (op : BitVec 8) (k : Bool) (char : Byte) : formatD op k char &&& 0xFFFFFE00 = op ++ 0#24 := by
  apply BitVec.eq_of_getLsbD_eq
  intro i hi
  simp only [formatD, BitVec.getLsbD_and, BitVec.getLsbD_append]
  interval_cases i <;> simp

theorem formatH_masked (op : BitVec 8) (lane : BitVec 2) (imm : BitVec 16) :
    formatH op lane imm &&& 0xFFFC0000 = op ++ 0#24 := by
  apply BitVec.eq_of_getLsbD_eq
  intro i hi
  simp only [formatH, BitVec.getLsbD_and, BitVec.getLsbD_append]
  interval_cases i <;> simp

theorem formatI_masked (op : BitVec 8) (imm : BitVec 16) : formatI op imm &&& 0xFFFF0000 = op ++ 0#24 := by
  apply BitVec.eq_of_getLsbD_eq
  intro i hi
  simp only [formatI, BitVec.getLsbD_and, BitVec.getLsbD_append]
  interval_cases i <;> simp

end Sys2Proof
end

