-- ==== Sys2Proof/Laws/Bytes.lean ====
section
/-!
SUPPORT. Byte order, operand fields, lane masks and accumulators as arithmetic; lengths and whole blocks of the hash
functions.
-/

namespace Sys2Proof

/-! ## The operand fields of a format are the operands (30_encoding.md R97) -/

theorem byteField_formatB (op : BitVec 8) (byte : Byte) : byteField (formatB op byte) = byte := by
  apply BitVec.eq_of_getLsbD_eq
  intro i hi
  simp only [byteField, formatB, BitVec.getLsbD_extractLsb', BitVec.getLsbD_append]
  simp [hi]

theorem byteField_formatD (op : BitVec 8) (k : Bool) (char : Byte) : byteField (formatD op k char) = char := by
  apply BitVec.eq_of_getLsbD_eq
  intro i hi
  simp only [byteField, formatD, BitVec.getLsbD_extractLsb', BitVec.getLsbD_append]
  simp [hi]

theorem kField_formatD (op : BitVec 8) (k : Bool) (char : Byte) : kField (formatD op k char) = k := by
  simp only [kField, formatD, BitVec.getLsbD_append]
  simp

theorem immField_formatH (op : BitVec 8) (lane : BitVec 2) (imm : BitVec 16) :
    immField (formatH op lane imm) = imm := by
  apply BitVec.eq_of_getLsbD_eq
  intro i hi
  simp only [immField, formatH, BitVec.getLsbD_extractLsb', BitVec.getLsbD_append]
  simp [hi]

theorem laneField_formatH (op : BitVec 8) (lane : BitVec 2) (imm : BitVec 16) :
    laneField (formatH op lane imm) = lane := by
  apply BitVec.eq_of_getLsbD_eq
  intro i hi
  simp only [laneField, formatH, BitVec.getLsbD_extractLsb', BitVec.getLsbD_append]
  simp [hi]

theorem immField_formatI (op : BitVec 8) (imm : BitVec 16) : immField (formatI op imm) = imm := by
  apply BitVec.eq_of_getLsbD_eq
  intro i hi
  simp only [immField, formatI, BitVec.getLsbD_extractLsb', BitVec.getLsbD_append]
  simp [hi]

end Sys2Proof

namespace Sys2Proof.Machine

/-! ## Words and bytes -/

@[simp] theorem wordBytes_length (w : Word) : (wordBytes w).length = 4 := rfl

@[simp] theorem be64_length (x : BitVec 64) : (be64 x).length = 8 := by simp [be64]

/-- Bits of the 16-bit mask of a counter lane. -/
theorem laneMask_getLsbD (i : Nat) : (0xFFFF#64).getLsbD i = decide (i < 16) := by
  have h : 0xFFFF#64 = (BitVec.allOnes 16).setWidth 64 := by decide
  rw [h, BitVec.getLsbD_setWidth, BitVec.getLsbD_allOnes]
  by_cases h1 : i < 16
  · simp [h1]; omega
  · simp [h1]

/-- A big-endian word is its four bytes side by side (20_memory.md R71). -/
theorem be32_eq_append (A : List Byte) (i : Nat) :
    be32 A i = byteAt A i ++ byteAt A (i + 1) ++ byteAt A (i + 2) ++ byteAt A (i + 3) := by
  unfold be32
  generalize byteAt A i = a
  generalize byteAt A (i + 1) = b
  generalize byteAt A (i + 2) = c
  generalize byteAt A (i + 3) = d
  apply BitVec.eq_of_getLsbD_eq
  intro j hj
  simp only [BitVec.getLsbD_or, BitVec.getLsbD_shiftLeft, BitVec.getLsbD_setWidth, BitVec.getLsbD_append]
  interval_cases j <;> simp

/-! ## Accumulators as arithmetic -/

/-- The mask of the `n` valid bits is reduction modulo 2^n. -/
theorem toNat_and_lowMask {w n : Nat} (a : BitVec w) (hn : n < w) : (a &&& lowMask w n).toNat = a.toNat % 2 ^ n := by
  have hone : (1#w).toNat = 1 := by
    rw [BitVec.toNat_ofNat]; exact Nat.mod_eq_of_lt (Nat.one_lt_two_pow (by omega))
  have hpow : 2 ^ n < 2 ^ w := Nat.pow_lt_pow_right (by decide) hn
  have hshift : (1#w <<< n).toNat = 2 ^ n := by
    rw [BitVec.toNat_shiftLeft, hone, Nat.shiftLeft_eq, Nat.one_mul, Nat.mod_eq_of_lt hpow]
  have hmask : (lowMask w n).toNat = 2 ^ n - 1 := by
    have hle : 1#w ≤ 1#w <<< n := by
      rw [BitVec.le_def, hshift, hone]; exact Nat.one_le_two_pow
    rw [lowMask, BitVec.toNat_sub_of_le hle, hshift, hone]
  rw [BitVec.toNat_and, hmask, Nat.and_two_pow_sub_one_eq_mod]

/-- Shifting data in below an accumulator that leaves room for it is arithmetic. -/
theorem toNat_shiftIn {w m : Nat} (a : BitVec w) (x : BitVec m) (hm : m ≤ w) (ha : a.toNat < 2 ^ (w - m)) :
    ((a <<< m) ||| x.setWidth w).toNat = a.toNat * 2 ^ m + x.toNat := by
  have hlt : a.toNat * 2 ^ m < 2 ^ w := by
    calc a.toNat * 2 ^ m < 2 ^ (w - m) * 2 ^ m := Nat.mul_lt_mul_of_pos_right ha (Nat.two_pow_pos m)
      _ = 2 ^ w := by rw [← Nat.pow_add]; congr 1; omega
  have hx : x.toNat < 2 ^ w := lt_of_lt_of_le x.isLt (Nat.pow_le_pow_right (by decide) hm)
  rw [BitVec.toNat_or, BitVec.toNat_shiftLeft, BitVec.toNat_setWidth, Nat.shiftLeft_eq, Nat.mod_eq_of_lt hlt,
    Nat.mod_eq_of_lt hx, Nat.mul_comm, Nat.two_pow_add_eq_or_of_lt x.isLt]

/-! ## Lengths of the hash functions (43_hmac_sha1.md) -/

/-- ROTL_n is the rotation of the word type (43_hmac_sha1.md R231). -/
theorem rotl_eq_rotateLeft {n : Nat} (h : n < 32) (x : Word) : rotl n x = x.rotateLeft n := by
  rw [rotl, BitVec.rotateLeft_def, Nat.mod_eq_of_lt h]

@[simp] theorem HashWords.bytes_length (h : HashWords) : h.bytes.length = 20 := by simp [HashWords.bytes]

@[simp] theorem sha1_length (M : List Byte) : (sha1 M).length = 20 := HashWords.bytes_length _

@[simp] theorem hmacSha1_length (k m : List Byte) : (hmacSha1 k m).length = 20 := sha1_length _

theorem hmacKeyBlock_length {k : List Byte} (h : k.length ≤ 64) : (hmacKeyBlock k).length = 64 := by
  simp [hmacKeyBlock]; omega

theorem innerKey_length {k : List Byte} (h : k.length ≤ 64) : (innerKey k).length = 64 := by
  simp [innerKey, hmacKeyBlock_length h]

theorem outerKey_length {k : List Byte} (h : k.length ≤ 64) : (outerKey k).length = 64 := by
  simp [outerKey, hmacKeyBlock_length h]

/-- Two whole blocks are split into themselves. -/
theorem blocks_two {A B : List Byte} (hA : A.length = 64) (hB : B.length = 64) : blocks (A ++ B) = [A, B] := by
  have hlen : (A ++ B).length / 64 = 2 := by simp [hA, hB]
  unfold blocks
  rw [hlen]
  simp [List.range_succ, ← hA]
  omega

theorem byteAt_toList {n : Nat} (v : Vector Byte n) (i : Nat) (h : i < n) : byteAt v.toList i = v[i] := by
  simp [byteAt, h]

/-- A digest register holds exactly the 20 bytes of the hash. -/
theorem digestOf_toList {bytes : List Byte} (h : bytes.length = 20) : (digestOf bytes).toList = bytes := by
  apply List.ext_getElem
  · simp [h]
  · intro i h1 h2
    simp [digestOf, byteAt, h2]

end Sys2Proof.Machine
end

