-- ==== Sys2Proof/Laws/State.lean ====
section
/-!
SUPPORT. What each named update of the state does to each field, one lemma a field, so that no later proof unfolds a
record update.
-/

namespace Sys2Proof.Machine

/-! ## `accept`: a command word is accepted (40_control.md R121) -/

@[simp] theorem accept_key (s : State) (w : Word) : (accept w s).key = s.key := rfl
@[simp] theorem accept_keylen (s : State) (w : Word) : (accept w s).keylen = s.keylen := rfl
@[simp] theorem accept_ctr (s : State) (w : Word) : (accept w s).ctr = s.ctr := rfl
@[simp] theorem accept_digest (s : State) (w : Word) : (accept w s).digest = s.digest := rfl
@[simp] theorem accept_dv (s : State) (w : Word) : (accept w s).dv = s.dv := rfl
@[simp] theorem accept_offset (s : State) (w : Word) : (accept w s).offset = s.offset := rfl
@[simp] theorem accept_trunc (s : State) (w : Word) : (accept w s).trunc = s.trunc := rfl
@[simp] theorem accept_codeNum (s : State) (w : Word) : (accept w s).codeNum = s.codeNum := rfl
@[simp] theorem accept_code (s : State) (w : Word) : (accept w s).code = s.code := rfl
@[simp] theorem accept_cv (s : State) (w : Word) : (accept w s).cv = s.cv := rfl
@[simp] theorem accept_eacc (s : State) (w : Word) : (accept w s).eacc = s.eacc := rfl
@[simp] theorem accept_ecnt (s : State) (w : Word) : (accept w s).ecnt = s.ecnt := rfl
@[simp] theorem accept_eoutC0 (s : State) (w : Word) : (accept w s).eoutC0 = s.eoutC0 := rfl
@[simp] theorem accept_eoutC1 (s : State) (w : Word) : (accept w s).eoutC1 = s.eoutC1 := rfl
@[simp] theorem accept_eoutN (s : State) (w : Word) : (accept w s).eoutN = s.eoutN := rfl
@[simp] theorem accept_dacc (s : State) (w : Word) : (accept w s).dacc = s.dacc := rfl
@[simp] theorem accept_dcnt (s : State) (w : Word) : (accept w s).dcnt = s.dcnt := rfl
@[simp] theorem accept_dpad (s : State) (w : Word) : (accept w s).dpad = s.dpad := rfl
@[simp] theorem accept_doutByte (s : State) (w : Word) : (accept w s).doutByte = s.doutByte := rfl
@[simp] theorem accept_doutV (s : State) (w : Word) : (accept w s).doutV = s.doutV := rfl
@[simp] theorem accept_doutSkip (s : State) (w : Word) : (accept w s).doutSkip = s.doutSkip := rfl
@[simp] theorem accept_doutPadc (s : State) (w : Word) : (accept w s).doutPadc = s.doutPadc := rfl
@[simp] theorem accept_doutDrop (s : State) (w : Word) : (accept w s).doutDrop = s.doutDrop := rfl
@[simp] theorem accept_strict (s : State) (w : Word) : (accept w s).strict = s.strict := rfl
@[simp] theorem accept_ieDone (s : State) (w : Word) : (accept w s).ieDone = s.ieDone := rfl
@[simp] theorem accept_ieErr (s : State) (w : Word) : (accept w s).ieErr = s.ieErr := rfl
@[simp] theorem accept_busy (s : State) (w : Word) : (accept w s).busy = true := rfl
@[simp] theorem accept_done (s : State) (w : Word) : (accept w s).done = false := rfl
@[simp] theorem accept_err (s : State) (w : Word) : (accept w s).err = s.err := rfl
@[simp] theorem accept_errcode (s : State) (w : Word) : (accept w s).errcode = s.errcode := rfl
@[simp] theorem accept_pend (s : State) (w : Word) : (accept w s).pend = some { word := w, strict := s.strict } := rfl
@[simp] theorem accept_bus (s : State) (w : Word) : (accept w s).bus = s.bus := rfl

/-! ## `retire`: a command completes (R123) -/

@[simp] theorem retire_key (s : State) : (retire s).key = s.key := rfl
@[simp] theorem retire_keylen (s : State) : (retire s).keylen = s.keylen := rfl
@[simp] theorem retire_ctr (s : State) : (retire s).ctr = s.ctr := rfl
@[simp] theorem retire_digest (s : State) : (retire s).digest = s.digest := rfl
@[simp] theorem retire_dv (s : State) : (retire s).dv = s.dv := rfl
@[simp] theorem retire_offset (s : State) : (retire s).offset = s.offset := rfl
@[simp] theorem retire_trunc (s : State) : (retire s).trunc = s.trunc := rfl
@[simp] theorem retire_codeNum (s : State) : (retire s).codeNum = s.codeNum := rfl
@[simp] theorem retire_code (s : State) : (retire s).code = s.code := rfl
@[simp] theorem retire_cv (s : State) : (retire s).cv = s.cv := rfl
@[simp] theorem retire_eacc (s : State) : (retire s).eacc = s.eacc := rfl
@[simp] theorem retire_ecnt (s : State) : (retire s).ecnt = s.ecnt := rfl
@[simp] theorem retire_eoutC0 (s : State) : (retire s).eoutC0 = s.eoutC0 := rfl
@[simp] theorem retire_eoutC1 (s : State) : (retire s).eoutC1 = s.eoutC1 := rfl
@[simp] theorem retire_eoutN (s : State) : (retire s).eoutN = s.eoutN := rfl
@[simp] theorem retire_dacc (s : State) : (retire s).dacc = s.dacc := rfl
@[simp] theorem retire_dcnt (s : State) : (retire s).dcnt = s.dcnt := rfl
@[simp] theorem retire_dpad (s : State) : (retire s).dpad = s.dpad := rfl
@[simp] theorem retire_doutByte (s : State) : (retire s).doutByte = s.doutByte := rfl
@[simp] theorem retire_doutV (s : State) : (retire s).doutV = s.doutV := rfl
@[simp] theorem retire_doutSkip (s : State) : (retire s).doutSkip = s.doutSkip := rfl
@[simp] theorem retire_doutPadc (s : State) : (retire s).doutPadc = s.doutPadc := rfl
@[simp] theorem retire_doutDrop (s : State) : (retire s).doutDrop = s.doutDrop := rfl
@[simp] theorem retire_strict (s : State) : (retire s).strict = s.strict := rfl
@[simp] theorem retire_ieDone (s : State) : (retire s).ieDone = s.ieDone := rfl
@[simp] theorem retire_ieErr (s : State) : (retire s).ieErr = s.ieErr := rfl
@[simp] theorem retire_busy (s : State) : (retire s).busy = false := rfl
@[simp] theorem retire_done (s : State) : (retire s).done = true := rfl
@[simp] theorem retire_err (s : State) : (retire s).err = s.err := rfl
@[simp] theorem retire_errcode (s : State) : (retire s).errcode = s.errcode := rfl
@[simp] theorem retire_pend (s : State) : (retire s).pend = none := rfl
@[simp] theorem retire_bus (s : State) : (retire s).bus = s.bus := rfl

/-! ## `recordError`: an error is recorded (60_exceptions.md R301) -/

@[simp] theorem recordError_key (s : State) (e : Error) : (recordError e s).key = s.key := by unfold recordError; split <;> rfl
@[simp] theorem recordError_keylen (s : State) (e : Error) : (recordError e s).keylen = s.keylen := by unfold recordError; split <;> rfl
@[simp] theorem recordError_ctr (s : State) (e : Error) : (recordError e s).ctr = s.ctr := by unfold recordError; split <;> rfl
@[simp] theorem recordError_digest (s : State) (e : Error) : (recordError e s).digest = s.digest := by unfold recordError; split <;> rfl
@[simp] theorem recordError_dv (s : State) (e : Error) : (recordError e s).dv = s.dv := by unfold recordError; split <;> rfl
@[simp] theorem recordError_offset (s : State) (e : Error) : (recordError e s).offset = s.offset := by unfold recordError; split <;> rfl
@[simp] theorem recordError_trunc (s : State) (e : Error) : (recordError e s).trunc = s.trunc := by unfold recordError; split <;> rfl
@[simp] theorem recordError_codeNum (s : State) (e : Error) : (recordError e s).codeNum = s.codeNum := by unfold recordError; split <;> rfl
@[simp] theorem recordError_code (s : State) (e : Error) : (recordError e s).code = s.code := by unfold recordError; split <;> rfl
@[simp] theorem recordError_cv (s : State) (e : Error) : (recordError e s).cv = s.cv := by unfold recordError; split <;> rfl
@[simp] theorem recordError_eacc (s : State) (e : Error) : (recordError e s).eacc = s.eacc := by unfold recordError; split <;> rfl
@[simp] theorem recordError_ecnt (s : State) (e : Error) : (recordError e s).ecnt = s.ecnt := by unfold recordError; split <;> rfl
@[simp] theorem recordError_eoutC0 (s : State) (e : Error) : (recordError e s).eoutC0 = s.eoutC0 := by unfold recordError; split <;> rfl
@[simp] theorem recordError_eoutC1 (s : State) (e : Error) : (recordError e s).eoutC1 = s.eoutC1 := by unfold recordError; split <;> rfl
@[simp] theorem recordError_eoutN (s : State) (e : Error) : (recordError e s).eoutN = s.eoutN := by unfold recordError; split <;> rfl
@[simp] theorem recordError_dacc (s : State) (e : Error) : (recordError e s).dacc = s.dacc := by unfold recordError; split <;> rfl
@[simp] theorem recordError_dcnt (s : State) (e : Error) : (recordError e s).dcnt = s.dcnt := by unfold recordError; split <;> rfl
@[simp] theorem recordError_dpad (s : State) (e : Error) : (recordError e s).dpad = s.dpad := by unfold recordError; split <;> rfl
@[simp] theorem recordError_doutByte (s : State) (e : Error) : (recordError e s).doutByte = s.doutByte := by unfold recordError; split <;> rfl
@[simp] theorem recordError_doutV (s : State) (e : Error) : (recordError e s).doutV = s.doutV := by unfold recordError; split <;> rfl
@[simp] theorem recordError_doutSkip (s : State) (e : Error) : (recordError e s).doutSkip = s.doutSkip := by unfold recordError; split <;> rfl
@[simp] theorem recordError_doutPadc (s : State) (e : Error) : (recordError e s).doutPadc = s.doutPadc := by unfold recordError; split <;> rfl
@[simp] theorem recordError_doutDrop (s : State) (e : Error) : (recordError e s).doutDrop = s.doutDrop := by unfold recordError; split <;> rfl
@[simp] theorem recordError_strict (s : State) (e : Error) : (recordError e s).strict = s.strict := by unfold recordError; split <;> rfl
@[simp] theorem recordError_ieDone (s : State) (e : Error) : (recordError e s).ieDone = s.ieDone := by unfold recordError; split <;> rfl
@[simp] theorem recordError_ieErr (s : State) (e : Error) : (recordError e s).ieErr = s.ieErr := by unfold recordError; split <;> rfl
@[simp] theorem recordError_busy (s : State) (e : Error) : (recordError e s).busy = s.busy := by unfold recordError; split <;> rfl
@[simp] theorem recordError_done (s : State) (e : Error) : (recordError e s).done = s.done := by unfold recordError; split <;> rfl
@[simp] theorem recordError_err (s : State) (e : Error) : (recordError e s).err = true := by unfold recordError; split <;> simp_all
@[simp] theorem recordError_errcode (s : State) (e : Error) : (recordError e s).errcode = if s.err then s.errcode else some e := by unfold recordError; split <;> simp_all
@[simp] theorem recordError_pend (s : State) (e : Error) : (recordError e s).pend = s.pend := by unfold recordError; split <;> rfl
@[simp] theorem recordError_bus (s : State) (e : Error) : (recordError e s).bus = s.bus := by unfold recordError; split <;> rfl

/-! ## `clearError`: the error is cleared (40_control.md R127) -/

@[simp] theorem clearError_key (s : State) : (clearError s).key = s.key := rfl
@[simp] theorem clearError_keylen (s : State) : (clearError s).keylen = s.keylen := rfl
@[simp] theorem clearError_ctr (s : State) : (clearError s).ctr = s.ctr := rfl
@[simp] theorem clearError_digest (s : State) : (clearError s).digest = s.digest := rfl
@[simp] theorem clearError_dv (s : State) : (clearError s).dv = s.dv := rfl
@[simp] theorem clearError_offset (s : State) : (clearError s).offset = s.offset := rfl
@[simp] theorem clearError_trunc (s : State) : (clearError s).trunc = s.trunc := rfl
@[simp] theorem clearError_codeNum (s : State) : (clearError s).codeNum = s.codeNum := rfl
@[simp] theorem clearError_code (s : State) : (clearError s).code = s.code := rfl
@[simp] theorem clearError_cv (s : State) : (clearError s).cv = s.cv := rfl
@[simp] theorem clearError_eacc (s : State) : (clearError s).eacc = s.eacc := rfl
@[simp] theorem clearError_ecnt (s : State) : (clearError s).ecnt = s.ecnt := rfl
@[simp] theorem clearError_eoutC0 (s : State) : (clearError s).eoutC0 = s.eoutC0 := rfl
@[simp] theorem clearError_eoutC1 (s : State) : (clearError s).eoutC1 = s.eoutC1 := rfl
@[simp] theorem clearError_eoutN (s : State) : (clearError s).eoutN = s.eoutN := rfl
@[simp] theorem clearError_dacc (s : State) : (clearError s).dacc = s.dacc := rfl
@[simp] theorem clearError_dcnt (s : State) : (clearError s).dcnt = s.dcnt := rfl
@[simp] theorem clearError_dpad (s : State) : (clearError s).dpad = s.dpad := rfl
@[simp] theorem clearError_doutByte (s : State) : (clearError s).doutByte = s.doutByte := rfl
@[simp] theorem clearError_doutV (s : State) : (clearError s).doutV = s.doutV := rfl
@[simp] theorem clearError_doutSkip (s : State) : (clearError s).doutSkip = s.doutSkip := rfl
@[simp] theorem clearError_doutPadc (s : State) : (clearError s).doutPadc = s.doutPadc := rfl
@[simp] theorem clearError_doutDrop (s : State) : (clearError s).doutDrop = s.doutDrop := rfl
@[simp] theorem clearError_strict (s : State) : (clearError s).strict = s.strict := rfl
@[simp] theorem clearError_ieDone (s : State) : (clearError s).ieDone = s.ieDone := rfl
@[simp] theorem clearError_ieErr (s : State) : (clearError s).ieErr = s.ieErr := rfl
@[simp] theorem clearError_busy (s : State) : (clearError s).busy = s.busy := rfl
@[simp] theorem clearError_done (s : State) : (clearError s).done = s.done := rfl
@[simp] theorem clearError_err (s : State) : (clearError s).err = false := rfl
@[simp] theorem clearError_errcode (s : State) : (clearError s).errcode = none := rfl
@[simp] theorem clearError_pend (s : State) : (clearError s).pend = s.pend := rfl
@[simp] theorem clearError_bus (s : State) : (clearError s).bus = s.bus := rfl

/-! ## `writeCtrl`: a host write to CTRL (10_state.md R36) -/

@[simp] theorem writeCtrl_key (s : State) (v : Word) : (writeCtrl v s).key = s.key := rfl
@[simp] theorem writeCtrl_keylen (s : State) (v : Word) : (writeCtrl v s).keylen = s.keylen := rfl
@[simp] theorem writeCtrl_ctr (s : State) (v : Word) : (writeCtrl v s).ctr = s.ctr := rfl
@[simp] theorem writeCtrl_digest (s : State) (v : Word) : (writeCtrl v s).digest = s.digest := rfl
@[simp] theorem writeCtrl_dv (s : State) (v : Word) : (writeCtrl v s).dv = s.dv := rfl
@[simp] theorem writeCtrl_offset (s : State) (v : Word) : (writeCtrl v s).offset = s.offset := rfl
@[simp] theorem writeCtrl_trunc (s : State) (v : Word) : (writeCtrl v s).trunc = s.trunc := rfl
@[simp] theorem writeCtrl_codeNum (s : State) (v : Word) : (writeCtrl v s).codeNum = s.codeNum := rfl
@[simp] theorem writeCtrl_code (s : State) (v : Word) : (writeCtrl v s).code = s.code := rfl
@[simp] theorem writeCtrl_cv (s : State) (v : Word) : (writeCtrl v s).cv = s.cv := rfl
@[simp] theorem writeCtrl_eacc (s : State) (v : Word) : (writeCtrl v s).eacc = s.eacc := rfl
@[simp] theorem writeCtrl_ecnt (s : State) (v : Word) : (writeCtrl v s).ecnt = s.ecnt := rfl
@[simp] theorem writeCtrl_eoutC0 (s : State) (v : Word) : (writeCtrl v s).eoutC0 = s.eoutC0 := rfl
@[simp] theorem writeCtrl_eoutC1 (s : State) (v : Word) : (writeCtrl v s).eoutC1 = s.eoutC1 := rfl
@[simp] theorem writeCtrl_eoutN (s : State) (v : Word) : (writeCtrl v s).eoutN = s.eoutN := rfl
@[simp] theorem writeCtrl_dacc (s : State) (v : Word) : (writeCtrl v s).dacc = s.dacc := rfl
@[simp] theorem writeCtrl_dcnt (s : State) (v : Word) : (writeCtrl v s).dcnt = s.dcnt := rfl
@[simp] theorem writeCtrl_dpad (s : State) (v : Word) : (writeCtrl v s).dpad = s.dpad := rfl
@[simp] theorem writeCtrl_doutByte (s : State) (v : Word) : (writeCtrl v s).doutByte = s.doutByte := rfl
@[simp] theorem writeCtrl_doutV (s : State) (v : Word) : (writeCtrl v s).doutV = s.doutV := rfl
@[simp] theorem writeCtrl_doutSkip (s : State) (v : Word) : (writeCtrl v s).doutSkip = s.doutSkip := rfl
@[simp] theorem writeCtrl_doutPadc (s : State) (v : Word) : (writeCtrl v s).doutPadc = s.doutPadc := rfl
@[simp] theorem writeCtrl_doutDrop (s : State) (v : Word) : (writeCtrl v s).doutDrop = s.doutDrop := rfl
@[simp] theorem writeCtrl_strict (s : State) (v : Word) : (writeCtrl v s).strict = v.getLsbD 0 := rfl
@[simp] theorem writeCtrl_ieDone (s : State) (v : Word) : (writeCtrl v s).ieDone = v.getLsbD 1 := rfl
@[simp] theorem writeCtrl_ieErr (s : State) (v : Word) : (writeCtrl v s).ieErr = v.getLsbD 2 := rfl
@[simp] theorem writeCtrl_busy (s : State) (v : Word) : (writeCtrl v s).busy = s.busy := rfl
@[simp] theorem writeCtrl_done (s : State) (v : Word) : (writeCtrl v s).done = s.done := rfl
@[simp] theorem writeCtrl_err (s : State) (v : Word) : (writeCtrl v s).err = s.err := rfl
@[simp] theorem writeCtrl_errcode (s : State) (v : Word) : (writeCtrl v s).errcode = s.errcode := rfl
@[simp] theorem writeCtrl_pend (s : State) (v : Word) : (writeCtrl v s).pend = s.pend := rfl
@[simp] theorem writeCtrl_bus (s : State) (v : Word) : (writeCtrl v s).bus = s.bus := rfl

/-! ## `writeStatus`: a host write to STATUS (R38) -/

@[simp] theorem writeStatus_key (s : State) (v : Word) : (writeStatus v s).key = s.key := by unfold writeStatus; split <;> rfl
@[simp] theorem writeStatus_keylen (s : State) (v : Word) : (writeStatus v s).keylen = s.keylen := by unfold writeStatus; split <;> rfl
@[simp] theorem writeStatus_ctr (s : State) (v : Word) : (writeStatus v s).ctr = s.ctr := by unfold writeStatus; split <;> rfl
@[simp] theorem writeStatus_digest (s : State) (v : Word) : (writeStatus v s).digest = s.digest := by unfold writeStatus; split <;> rfl
@[simp] theorem writeStatus_dv (s : State) (v : Word) : (writeStatus v s).dv = s.dv := by unfold writeStatus; split <;> rfl
@[simp] theorem writeStatus_offset (s : State) (v : Word) : (writeStatus v s).offset = s.offset := by unfold writeStatus; split <;> rfl
@[simp] theorem writeStatus_trunc (s : State) (v : Word) : (writeStatus v s).trunc = s.trunc := by unfold writeStatus; split <;> rfl
@[simp] theorem writeStatus_codeNum (s : State) (v : Word) : (writeStatus v s).codeNum = s.codeNum := by unfold writeStatus; split <;> rfl
@[simp] theorem writeStatus_code (s : State) (v : Word) : (writeStatus v s).code = s.code := by unfold writeStatus; split <;> rfl
@[simp] theorem writeStatus_cv (s : State) (v : Word) : (writeStatus v s).cv = s.cv := by unfold writeStatus; split <;> rfl
@[simp] theorem writeStatus_eacc (s : State) (v : Word) : (writeStatus v s).eacc = s.eacc := by unfold writeStatus; split <;> rfl
@[simp] theorem writeStatus_ecnt (s : State) (v : Word) : (writeStatus v s).ecnt = s.ecnt := by unfold writeStatus; split <;> rfl
@[simp] theorem writeStatus_eoutC0 (s : State) (v : Word) : (writeStatus v s).eoutC0 = s.eoutC0 := by unfold writeStatus; split <;> rfl
@[simp] theorem writeStatus_eoutC1 (s : State) (v : Word) : (writeStatus v s).eoutC1 = s.eoutC1 := by unfold writeStatus; split <;> rfl
@[simp] theorem writeStatus_eoutN (s : State) (v : Word) : (writeStatus v s).eoutN = s.eoutN := by unfold writeStatus; split <;> rfl
@[simp] theorem writeStatus_dacc (s : State) (v : Word) : (writeStatus v s).dacc = s.dacc := by unfold writeStatus; split <;> rfl
@[simp] theorem writeStatus_dcnt (s : State) (v : Word) : (writeStatus v s).dcnt = s.dcnt := by unfold writeStatus; split <;> rfl
@[simp] theorem writeStatus_dpad (s : State) (v : Word) : (writeStatus v s).dpad = s.dpad := by unfold writeStatus; split <;> rfl
@[simp] theorem writeStatus_doutByte (s : State) (v : Word) : (writeStatus v s).doutByte = s.doutByte := by unfold writeStatus; split <;> rfl
@[simp] theorem writeStatus_doutV (s : State) (v : Word) : (writeStatus v s).doutV = s.doutV := by unfold writeStatus; split <;> rfl
@[simp] theorem writeStatus_doutSkip (s : State) (v : Word) : (writeStatus v s).doutSkip = s.doutSkip := by unfold writeStatus; split <;> rfl
@[simp] theorem writeStatus_doutPadc (s : State) (v : Word) : (writeStatus v s).doutPadc = s.doutPadc := by unfold writeStatus; split <;> rfl
@[simp] theorem writeStatus_doutDrop (s : State) (v : Word) : (writeStatus v s).doutDrop = s.doutDrop := by unfold writeStatus; split <;> rfl
@[simp] theorem writeStatus_strict (s : State) (v : Word) : (writeStatus v s).strict = s.strict := by unfold writeStatus; split <;> rfl
@[simp] theorem writeStatus_ieDone (s : State) (v : Word) : (writeStatus v s).ieDone = s.ieDone := by unfold writeStatus; split <;> rfl
@[simp] theorem writeStatus_ieErr (s : State) (v : Word) : (writeStatus v s).ieErr = s.ieErr := by unfold writeStatus; split <;> rfl
@[simp] theorem writeStatus_busy (s : State) (v : Word) : (writeStatus v s).busy = s.busy := by unfold writeStatus; split <;> rfl
@[simp] theorem writeStatus_done (s : State) (v : Word) : (writeStatus v s).done = (s.done && !v.getLsbD 1) := by unfold writeStatus; split <;> simp_all
@[simp] theorem writeStatus_err (s : State) (v : Word) : (writeStatus v s).err = s.err := by unfold writeStatus; split <;> rfl
@[simp] theorem writeStatus_errcode (s : State) (v : Word) : (writeStatus v s).errcode = s.errcode := by unfold writeStatus; split <;> rfl
@[simp] theorem writeStatus_pend (s : State) (v : Word) : (writeStatus v s).pend = s.pend := by unfold writeStatus; split <;> rfl
@[simp] theorem writeStatus_bus (s : State) (v : Word) : (writeStatus v s).bus = s.bus := by unfold writeStatus; split <;> rfl

/-! ## `setEout`: the encoder's result slots are written (41_base32.md R151) -/

@[simp] theorem setEout_key (s : State) (out : List Byte) : (setEout out s).key = s.key := by rcases out with _ | ⟨c, _ | ⟨d, l⟩⟩ <;> rfl
@[simp] theorem setEout_keylen (s : State) (out : List Byte) : (setEout out s).keylen = s.keylen := by rcases out with _ | ⟨c, _ | ⟨d, l⟩⟩ <;> rfl
@[simp] theorem setEout_ctr (s : State) (out : List Byte) : (setEout out s).ctr = s.ctr := by rcases out with _ | ⟨c, _ | ⟨d, l⟩⟩ <;> rfl
@[simp] theorem setEout_digest (s : State) (out : List Byte) : (setEout out s).digest = s.digest := by rcases out with _ | ⟨c, _ | ⟨d, l⟩⟩ <;> rfl
@[simp] theorem setEout_dv (s : State) (out : List Byte) : (setEout out s).dv = s.dv := by rcases out with _ | ⟨c, _ | ⟨d, l⟩⟩ <;> rfl
@[simp] theorem setEout_offset (s : State) (out : List Byte) : (setEout out s).offset = s.offset := by rcases out with _ | ⟨c, _ | ⟨d, l⟩⟩ <;> rfl
@[simp] theorem setEout_trunc (s : State) (out : List Byte) : (setEout out s).trunc = s.trunc := by rcases out with _ | ⟨c, _ | ⟨d, l⟩⟩ <;> rfl
@[simp] theorem setEout_codeNum (s : State) (out : List Byte) : (setEout out s).codeNum = s.codeNum := by rcases out with _ | ⟨c, _ | ⟨d, l⟩⟩ <;> rfl
@[simp] theorem setEout_code (s : State) (out : List Byte) : (setEout out s).code = s.code := by rcases out with _ | ⟨c, _ | ⟨d, l⟩⟩ <;> rfl
@[simp] theorem setEout_cv (s : State) (out : List Byte) : (setEout out s).cv = s.cv := by rcases out with _ | ⟨c, _ | ⟨d, l⟩⟩ <;> rfl
@[simp] theorem setEout_eacc (s : State) (out : List Byte) : (setEout out s).eacc = s.eacc := by rcases out with _ | ⟨c, _ | ⟨d, l⟩⟩ <;> rfl
@[simp] theorem setEout_ecnt (s : State) (out : List Byte) : (setEout out s).ecnt = s.ecnt := by rcases out with _ | ⟨c, _ | ⟨d, l⟩⟩ <;> rfl
@[simp] theorem setEout_eoutC0 (s : State) (out : List Byte) : (setEout out s).eoutC0 = out.headD 0 := by rcases out with _ | ⟨c, _ | ⟨d, l⟩⟩ <;> rfl
@[simp] theorem setEout_eoutC1 (s : State) (out : List Byte) : (setEout out s).eoutC1 = out.tail.headD 0 := by rcases out with _ | ⟨c, _ | ⟨d, l⟩⟩ <;> rfl
@[simp] theorem setEout_dacc (s : State) (out : List Byte) : (setEout out s).dacc = s.dacc := by rcases out with _ | ⟨c, _ | ⟨d, l⟩⟩ <;> rfl
@[simp] theorem setEout_dcnt (s : State) (out : List Byte) : (setEout out s).dcnt = s.dcnt := by rcases out with _ | ⟨c, _ | ⟨d, l⟩⟩ <;> rfl
@[simp] theorem setEout_dpad (s : State) (out : List Byte) : (setEout out s).dpad = s.dpad := by rcases out with _ | ⟨c, _ | ⟨d, l⟩⟩ <;> rfl
@[simp] theorem setEout_doutByte (s : State) (out : List Byte) : (setEout out s).doutByte = s.doutByte := by rcases out with _ | ⟨c, _ | ⟨d, l⟩⟩ <;> rfl
@[simp] theorem setEout_doutV (s : State) (out : List Byte) : (setEout out s).doutV = s.doutV := by rcases out with _ | ⟨c, _ | ⟨d, l⟩⟩ <;> rfl
@[simp] theorem setEout_doutSkip (s : State) (out : List Byte) : (setEout out s).doutSkip = s.doutSkip := by rcases out with _ | ⟨c, _ | ⟨d, l⟩⟩ <;> rfl
@[simp] theorem setEout_doutPadc (s : State) (out : List Byte) : (setEout out s).doutPadc = s.doutPadc := by rcases out with _ | ⟨c, _ | ⟨d, l⟩⟩ <;> rfl
@[simp] theorem setEout_doutDrop (s : State) (out : List Byte) : (setEout out s).doutDrop = s.doutDrop := by rcases out with _ | ⟨c, _ | ⟨d, l⟩⟩ <;> rfl
@[simp] theorem setEout_strict (s : State) (out : List Byte) : (setEout out s).strict = s.strict := by rcases out with _ | ⟨c, _ | ⟨d, l⟩⟩ <;> rfl
@[simp] theorem setEout_ieDone (s : State) (out : List Byte) : (setEout out s).ieDone = s.ieDone := by rcases out with _ | ⟨c, _ | ⟨d, l⟩⟩ <;> rfl
@[simp] theorem setEout_ieErr (s : State) (out : List Byte) : (setEout out s).ieErr = s.ieErr := by rcases out with _ | ⟨c, _ | ⟨d, l⟩⟩ <;> rfl
@[simp] theorem setEout_busy (s : State) (out : List Byte) : (setEout out s).busy = s.busy := by rcases out with _ | ⟨c, _ | ⟨d, l⟩⟩ <;> rfl
@[simp] theorem setEout_done (s : State) (out : List Byte) : (setEout out s).done = s.done := by rcases out with _ | ⟨c, _ | ⟨d, l⟩⟩ <;> rfl
@[simp] theorem setEout_err (s : State) (out : List Byte) : (setEout out s).err = s.err := by rcases out with _ | ⟨c, _ | ⟨d, l⟩⟩ <;> rfl
@[simp] theorem setEout_errcode (s : State) (out : List Byte) : (setEout out s).errcode = s.errcode := by rcases out with _ | ⟨c, _ | ⟨d, l⟩⟩ <;> rfl
@[simp] theorem setEout_pend (s : State) (out : List Byte) : (setEout out s).pend = s.pend := by rcases out with _ | ⟨c, _ | ⟨d, l⟩⟩ <;> rfl
@[simp] theorem setEout_bus (s : State) (out : List Byte) : (setEout out s).bus = s.bus := by rcases out with _ | ⟨c, _ | ⟨d, l⟩⟩ <;> rfl

/-! ## `setDout`: the decoder's result fields are written (10_state.md R34) -/

@[simp] theorem setDout_key (s : State) (byte : Option Byte) (skip padc : Bool) (drop : Fin 8) : (setDout byte skip padc drop s).key = s.key := rfl
@[simp] theorem setDout_keylen (s : State) (byte : Option Byte) (skip padc : Bool) (drop : Fin 8) : (setDout byte skip padc drop s).keylen = s.keylen := rfl
@[simp] theorem setDout_ctr (s : State) (byte : Option Byte) (skip padc : Bool) (drop : Fin 8) : (setDout byte skip padc drop s).ctr = s.ctr := rfl
@[simp] theorem setDout_digest (s : State) (byte : Option Byte) (skip padc : Bool) (drop : Fin 8) : (setDout byte skip padc drop s).digest = s.digest := rfl
@[simp] theorem setDout_dv (s : State) (byte : Option Byte) (skip padc : Bool) (drop : Fin 8) : (setDout byte skip padc drop s).dv = s.dv := rfl
@[simp] theorem setDout_offset (s : State) (byte : Option Byte) (skip padc : Bool) (drop : Fin 8) : (setDout byte skip padc drop s).offset = s.offset := rfl
@[simp] theorem setDout_trunc (s : State) (byte : Option Byte) (skip padc : Bool) (drop : Fin 8) : (setDout byte skip padc drop s).trunc = s.trunc := rfl
@[simp] theorem setDout_codeNum (s : State) (byte : Option Byte) (skip padc : Bool) (drop : Fin 8) : (setDout byte skip padc drop s).codeNum = s.codeNum := rfl
@[simp] theorem setDout_code (s : State) (byte : Option Byte) (skip padc : Bool) (drop : Fin 8) : (setDout byte skip padc drop s).code = s.code := rfl
@[simp] theorem setDout_cv (s : State) (byte : Option Byte) (skip padc : Bool) (drop : Fin 8) : (setDout byte skip padc drop s).cv = s.cv := rfl
@[simp] theorem setDout_eacc (s : State) (byte : Option Byte) (skip padc : Bool) (drop : Fin 8) : (setDout byte skip padc drop s).eacc = s.eacc := rfl
@[simp] theorem setDout_ecnt (s : State) (byte : Option Byte) (skip padc : Bool) (drop : Fin 8) : (setDout byte skip padc drop s).ecnt = s.ecnt := rfl
@[simp] theorem setDout_eoutC0 (s : State) (byte : Option Byte) (skip padc : Bool) (drop : Fin 8) : (setDout byte skip padc drop s).eoutC0 = s.eoutC0 := rfl
@[simp] theorem setDout_eoutC1 (s : State) (byte : Option Byte) (skip padc : Bool) (drop : Fin 8) : (setDout byte skip padc drop s).eoutC1 = s.eoutC1 := rfl
@[simp] theorem setDout_eoutN (s : State) (byte : Option Byte) (skip padc : Bool) (drop : Fin 8) : (setDout byte skip padc drop s).eoutN = s.eoutN := rfl
@[simp] theorem setDout_dacc (s : State) (byte : Option Byte) (skip padc : Bool) (drop : Fin 8) : (setDout byte skip padc drop s).dacc = s.dacc := rfl
@[simp] theorem setDout_dcnt (s : State) (byte : Option Byte) (skip padc : Bool) (drop : Fin 8) : (setDout byte skip padc drop s).dcnt = s.dcnt := rfl
@[simp] theorem setDout_dpad (s : State) (byte : Option Byte) (skip padc : Bool) (drop : Fin 8) : (setDout byte skip padc drop s).dpad = s.dpad := rfl
@[simp] theorem setDout_doutByte (s : State) (byte : Option Byte) (skip padc : Bool) (drop : Fin 8) : (setDout byte skip padc drop s).doutByte = byte.getD 0 := rfl
@[simp] theorem setDout_doutV (s : State) (byte : Option Byte) (skip padc : Bool) (drop : Fin 8) : (setDout byte skip padc drop s).doutV = byte.isSome := rfl
@[simp] theorem setDout_doutSkip (s : State) (byte : Option Byte) (skip padc : Bool) (drop : Fin 8) : (setDout byte skip padc drop s).doutSkip = skip := rfl
@[simp] theorem setDout_doutPadc (s : State) (byte : Option Byte) (skip padc : Bool) (drop : Fin 8) : (setDout byte skip padc drop s).doutPadc = padc := rfl
@[simp] theorem setDout_doutDrop (s : State) (byte : Option Byte) (skip padc : Bool) (drop : Fin 8) : (setDout byte skip padc drop s).doutDrop = drop := rfl
@[simp] theorem setDout_strict (s : State) (byte : Option Byte) (skip padc : Bool) (drop : Fin 8) : (setDout byte skip padc drop s).strict = s.strict := rfl
@[simp] theorem setDout_ieDone (s : State) (byte : Option Byte) (skip padc : Bool) (drop : Fin 8) : (setDout byte skip padc drop s).ieDone = s.ieDone := rfl
@[simp] theorem setDout_ieErr (s : State) (byte : Option Byte) (skip padc : Bool) (drop : Fin 8) : (setDout byte skip padc drop s).ieErr = s.ieErr := rfl
@[simp] theorem setDout_busy (s : State) (byte : Option Byte) (skip padc : Bool) (drop : Fin 8) : (setDout byte skip padc drop s).busy = s.busy := rfl
@[simp] theorem setDout_done (s : State) (byte : Option Byte) (skip padc : Bool) (drop : Fin 8) : (setDout byte skip padc drop s).done = s.done := rfl
@[simp] theorem setDout_err (s : State) (byte : Option Byte) (skip padc : Bool) (drop : Fin 8) : (setDout byte skip padc drop s).err = s.err := rfl
@[simp] theorem setDout_errcode (s : State) (byte : Option Byte) (skip padc : Bool) (drop : Fin 8) : (setDout byte skip padc drop s).errcode = s.errcode := rfl
@[simp] theorem setDout_pend (s : State) (byte : Option Byte) (skip padc : Bool) (drop : Fin 8) : (setDout byte skip padc drop s).pend = s.pend := rfl
@[simp] theorem setDout_bus (s : State) (byte : Option Byte) (skip padc : Bool) (drop : Fin 8) : (setDout byte skip padc drop s).bus = s.bus := rfl

/-! ## `truncateDigest`: the held digest is truncated (44_truncation.md R275) -/

@[simp] theorem truncateDigest_key (s : State) : (truncateDigest s).key = s.key := rfl
@[simp] theorem truncateDigest_keylen (s : State) : (truncateDigest s).keylen = s.keylen := rfl
@[simp] theorem truncateDigest_ctr (s : State) : (truncateDigest s).ctr = s.ctr := rfl
@[simp] theorem truncateDigest_digest (s : State) : (truncateDigest s).digest = s.digest := rfl
@[simp] theorem truncateDigest_dv (s : State) : (truncateDigest s).dv = s.dv := rfl
@[simp] theorem truncateDigest_offset (s : State) : (truncateDigest s).offset = truncOffset s.digest := rfl
@[simp] theorem truncateDigest_trunc (s : State) : (truncateDigest s).trunc = (truncValue s.digest).setWidth 31 := rfl
@[simp] theorem truncateDigest_codeNum (s : State) : (truncateDigest s).codeNum = codeNumber s.digest := rfl
@[simp] theorem truncateDigest_code (s : State) : (truncateDigest s).code = codeChars (codeNumber s.digest).val := rfl
@[simp] theorem truncateDigest_cv (s : State) : (truncateDigest s).cv = true := rfl
@[simp] theorem truncateDigest_eacc (s : State) : (truncateDigest s).eacc = s.eacc := rfl
@[simp] theorem truncateDigest_ecnt (s : State) : (truncateDigest s).ecnt = s.ecnt := rfl
@[simp] theorem truncateDigest_eoutC0 (s : State) : (truncateDigest s).eoutC0 = s.eoutC0 := rfl
@[simp] theorem truncateDigest_eoutC1 (s : State) : (truncateDigest s).eoutC1 = s.eoutC1 := rfl
@[simp] theorem truncateDigest_eoutN (s : State) : (truncateDigest s).eoutN = s.eoutN := rfl
@[simp] theorem truncateDigest_dacc (s : State) : (truncateDigest s).dacc = s.dacc := rfl
@[simp] theorem truncateDigest_dcnt (s : State) : (truncateDigest s).dcnt = s.dcnt := rfl
@[simp] theorem truncateDigest_dpad (s : State) : (truncateDigest s).dpad = s.dpad := rfl
@[simp] theorem truncateDigest_doutByte (s : State) : (truncateDigest s).doutByte = s.doutByte := rfl
@[simp] theorem truncateDigest_doutV (s : State) : (truncateDigest s).doutV = s.doutV := rfl
@[simp] theorem truncateDigest_doutSkip (s : State) : (truncateDigest s).doutSkip = s.doutSkip := rfl
@[simp] theorem truncateDigest_doutPadc (s : State) : (truncateDigest s).doutPadc = s.doutPadc := rfl
@[simp] theorem truncateDigest_doutDrop (s : State) : (truncateDigest s).doutDrop = s.doutDrop := rfl
@[simp] theorem truncateDigest_strict (s : State) : (truncateDigest s).strict = s.strict := rfl
@[simp] theorem truncateDigest_ieDone (s : State) : (truncateDigest s).ieDone = s.ieDone := rfl
@[simp] theorem truncateDigest_ieErr (s : State) : (truncateDigest s).ieErr = s.ieErr := rfl
@[simp] theorem truncateDigest_busy (s : State) : (truncateDigest s).busy = s.busy := rfl
@[simp] theorem truncateDigest_done (s : State) : (truncateDigest s).done = s.done := rfl
@[simp] theorem truncateDigest_err (s : State) : (truncateDigest s).err = s.err := rfl
@[simp] theorem truncateDigest_errcode (s : State) : (truncateDigest s).errcode = s.errcode := rfl
@[simp] theorem truncateDigest_pend (s : State) : (truncateDigest s).pend = s.pend := rfl
@[simp] theorem truncateDigest_bus (s : State) : (truncateDigest s).bus = s.bus := rfl

/-! ## `regRead`: a host read (20_memory.md R62) -/

@[simp] theorem regRead_key (s : State) (off : BitVec 8) : (regRead off s).key = s.key := rfl
@[simp] theorem regRead_keylen (s : State) (off : BitVec 8) : (regRead off s).keylen = s.keylen := rfl
@[simp] theorem regRead_ctr (s : State) (off : BitVec 8) : (regRead off s).ctr = s.ctr := rfl
@[simp] theorem regRead_digest (s : State) (off : BitVec 8) : (regRead off s).digest = s.digest := rfl
@[simp] theorem regRead_dv (s : State) (off : BitVec 8) : (regRead off s).dv = s.dv := rfl
@[simp] theorem regRead_offset (s : State) (off : BitVec 8) : (regRead off s).offset = s.offset := rfl
@[simp] theorem regRead_trunc (s : State) (off : BitVec 8) : (regRead off s).trunc = s.trunc := rfl
@[simp] theorem regRead_codeNum (s : State) (off : BitVec 8) : (regRead off s).codeNum = s.codeNum := rfl
@[simp] theorem regRead_code (s : State) (off : BitVec 8) : (regRead off s).code = s.code := rfl
@[simp] theorem regRead_cv (s : State) (off : BitVec 8) : (regRead off s).cv = s.cv := rfl
@[simp] theorem regRead_eacc (s : State) (off : BitVec 8) : (regRead off s).eacc = s.eacc := rfl
@[simp] theorem regRead_ecnt (s : State) (off : BitVec 8) : (regRead off s).ecnt = s.ecnt := rfl
@[simp] theorem regRead_eoutC0 (s : State) (off : BitVec 8) : (regRead off s).eoutC0 = s.eoutC0 := rfl
@[simp] theorem regRead_eoutC1 (s : State) (off : BitVec 8) : (regRead off s).eoutC1 = s.eoutC1 := rfl
@[simp] theorem regRead_eoutN (s : State) (off : BitVec 8) : (regRead off s).eoutN = s.eoutN := rfl
@[simp] theorem regRead_dacc (s : State) (off : BitVec 8) : (regRead off s).dacc = s.dacc := rfl
@[simp] theorem regRead_dcnt (s : State) (off : BitVec 8) : (regRead off s).dcnt = s.dcnt := rfl
@[simp] theorem regRead_dpad (s : State) (off : BitVec 8) : (regRead off s).dpad = s.dpad := rfl
@[simp] theorem regRead_doutByte (s : State) (off : BitVec 8) : (regRead off s).doutByte = s.doutByte := rfl
@[simp] theorem regRead_doutV (s : State) (off : BitVec 8) : (regRead off s).doutV = s.doutV := rfl
@[simp] theorem regRead_doutSkip (s : State) (off : BitVec 8) : (regRead off s).doutSkip = s.doutSkip := rfl
@[simp] theorem regRead_doutPadc (s : State) (off : BitVec 8) : (regRead off s).doutPadc = s.doutPadc := rfl
@[simp] theorem regRead_doutDrop (s : State) (off : BitVec 8) : (regRead off s).doutDrop = s.doutDrop := rfl
@[simp] theorem regRead_strict (s : State) (off : BitVec 8) : (regRead off s).strict = s.strict := rfl
@[simp] theorem regRead_ieDone (s : State) (off : BitVec 8) : (regRead off s).ieDone = s.ieDone := rfl
@[simp] theorem regRead_ieErr (s : State) (off : BitVec 8) : (regRead off s).ieErr = s.ieErr := rfl
@[simp] theorem regRead_busy (s : State) (off : BitVec 8) : (regRead off s).busy = s.busy := rfl
@[simp] theorem regRead_done (s : State) (off : BitVec 8) : (regRead off s).done = s.done := rfl
@[simp] theorem regRead_err (s : State) (off : BitVec 8) : (regRead off s).err = s.err := rfl
@[simp] theorem regRead_errcode (s : State) (off : BitVec 8) : (regRead off s).errcode = s.errcode := rfl
@[simp] theorem regRead_pend (s : State) (off : BitVec 8) : (regRead off s).pend = s.pend := rfl

/-! ## `popTurn`: the next turn is taken off the schedule (log 1) -/

@[simp] theorem popTurn_key (s : State) : (popTurn s).key = s.key := rfl
@[simp] theorem popTurn_keylen (s : State) : (popTurn s).keylen = s.keylen := rfl
@[simp] theorem popTurn_ctr (s : State) : (popTurn s).ctr = s.ctr := rfl
@[simp] theorem popTurn_digest (s : State) : (popTurn s).digest = s.digest := rfl
@[simp] theorem popTurn_dv (s : State) : (popTurn s).dv = s.dv := rfl
@[simp] theorem popTurn_offset (s : State) : (popTurn s).offset = s.offset := rfl
@[simp] theorem popTurn_trunc (s : State) : (popTurn s).trunc = s.trunc := rfl
@[simp] theorem popTurn_codeNum (s : State) : (popTurn s).codeNum = s.codeNum := rfl
@[simp] theorem popTurn_code (s : State) : (popTurn s).code = s.code := rfl
@[simp] theorem popTurn_cv (s : State) : (popTurn s).cv = s.cv := rfl
@[simp] theorem popTurn_eacc (s : State) : (popTurn s).eacc = s.eacc := rfl
@[simp] theorem popTurn_ecnt (s : State) : (popTurn s).ecnt = s.ecnt := rfl
@[simp] theorem popTurn_eoutC0 (s : State) : (popTurn s).eoutC0 = s.eoutC0 := rfl
@[simp] theorem popTurn_eoutC1 (s : State) : (popTurn s).eoutC1 = s.eoutC1 := rfl
@[simp] theorem popTurn_eoutN (s : State) : (popTurn s).eoutN = s.eoutN := rfl
@[simp] theorem popTurn_dacc (s : State) : (popTurn s).dacc = s.dacc := rfl
@[simp] theorem popTurn_dcnt (s : State) : (popTurn s).dcnt = s.dcnt := rfl
@[simp] theorem popTurn_dpad (s : State) : (popTurn s).dpad = s.dpad := rfl
@[simp] theorem popTurn_doutByte (s : State) : (popTurn s).doutByte = s.doutByte := rfl
@[simp] theorem popTurn_doutV (s : State) : (popTurn s).doutV = s.doutV := rfl
@[simp] theorem popTurn_doutSkip (s : State) : (popTurn s).doutSkip = s.doutSkip := rfl
@[simp] theorem popTurn_doutPadc (s : State) : (popTurn s).doutPadc = s.doutPadc := rfl
@[simp] theorem popTurn_doutDrop (s : State) : (popTurn s).doutDrop = s.doutDrop := rfl
@[simp] theorem popTurn_strict (s : State) : (popTurn s).strict = s.strict := rfl
@[simp] theorem popTurn_ieDone (s : State) : (popTurn s).ieDone = s.ieDone := rfl
@[simp] theorem popTurn_ieErr (s : State) : (popTurn s).ieErr = s.ieErr := rfl
@[simp] theorem popTurn_busy (s : State) : (popTurn s).busy = s.busy := rfl
@[simp] theorem popTurn_done (s : State) : (popTurn s).done = s.done := rfl
@[simp] theorem popTurn_err (s : State) : (popTurn s).err = s.err := rfl
@[simp] theorem popTurn_errcode (s : State) : (popTurn s).errcode = s.errcode := rfl
@[simp] theorem popTurn_pend (s : State) : (popTurn s).pend = s.pend := rfl
@[simp] theorem popTurn_bus (s : State) : (popTurn s).bus = { s.bus with turns := s.bus.turns.tail } := rfl

end Sys2Proof.Machine
end

