-- ==== Sys2Proof/Laws/Exec.lean ====
section
/-!
SUPPORT. What a completion and a command can do: the body of each command, and the one case lemma of `complete` and of
`exec` that later proofs cite instead of unfolding a meaning.
-/

namespace Sys2Proof.Machine

open Sys2Proof.Claims

/-! ## `complete` -/

theorem complete_ok (s t : State) : complete s (.ok t) = .next (finished t) := rfl

theorem complete_error (s : State) (e : Error) : complete s (.error e) = .next (failed e s) := by
  unfold complete recordError
  cases h : s.err <;> simp [retire, failed, finished, h]

/-- A completion always answers a next state: the body's, finished, or the failed one. -/
theorem complete_cases {s t : State} {r : Except Error State} (h : complete s r = .next t) :
    (∃ u, r = .ok u ∧ t = finished u) ∨ (∃ e, r = .error e ∧ t = failed e s) := by
  cases r with
  | ok u => rw [complete_ok] at h; exact .inl ⟨u, rfl, (Host.Outcome.next.inj h).symm⟩
  | error e => rw [complete_error] at h; exact .inr ⟨e, rfl, (Host.Outcome.next.inj h).symm⟩

theorem complete_next (s : State) (r : Except Error State) : ∃ t, complete s r = .next t := by
  cases r with
  | ok u => exact ⟨_, complete_ok s u⟩
  | error e => exact ⟨_, complete_error s e⟩

/-! ## `exec` -/

/-- The pseudocode of a command as a function: the state it leaves or the error it raises. SRST never completes; its row
here is the reset it performs. -/
def bodyOf (i : Instr) (s : State) : Except Error State :=
  match i with
  | .nop => .ok s
  | .srst => .ok (softReset s)
  | .errClr => .ok (clearError s)
  | .keyClr => .ok { s with key := Vector.replicate 64 0, keylen := 0 }
  | .keyByte byte => appendKey byte s
  | .ctrLd lane imm => .ok { s with ctr := replaceLane s.ctr lane imm }
  | .ctrAddi imm => .ok { s with ctr := s.ctr + sext64 imm }
  | .hmac => computeDigest s
  | .dtrunc => if s.dv then .ok (truncateDigest s) else .error .noDigest
  | .hotp => (computeDigest s).map truncateDigest
  | .b32eClr => .ok (setEout [] { s with eacc := 0, ecnt := 0 })
  | .b32eByte byte => .ok (encodeByte byte s)
  | .b32eFin => .ok (setEout (flushChars s) { s with eacc := 0, ecnt := 0 })
  | .b32dClr => .ok (setDout none false false 0 { s with dacc := 0, dcnt := 0, dpad := false })
  | .b32dChar k char => decodeChar k char (latchedStrict s) s
  | .b32dFin => .ok (setDout none false false s.dcnt { s with dacc := 0, dcnt := 0, dpad := false })

/-- Every command but SRST is the completion of its body (40_control.md R123). -/
theorem exec_eq_complete {i : Instr} (h : i ≠ .srst) (s : State) : exec i s = complete s (bodyOf i s) := by
  cases i <;> first | rfl | exact absurd rfl h

theorem exec_srst (s : State) : exec .srst s = .next (softReset s) := rfl

/-- What a command can do: SRST resets; every other finishes its body or fails with the error its body raises. -/
theorem exec_cases {i : Instr} {s t : State} (h : exec i s = .next t) :
    (i = .srst ∧ t = softReset s) ∨
    (i ≠ .srst ∧ ∃ u, bodyOf i s = .ok u ∧ t = finished u) ∨
    (i ≠ .srst ∧ ∃ e, bodyOf i s = .error e ∧ t = failed e s) := by
  by_cases hi : i = .srst
  · subst hi; exact .inl ⟨rfl, (Host.Outcome.next.inj h).symm⟩
  · rw [exec_eq_complete hi] at h
    rcases complete_cases h with h | h
    · exact .inr (.inl ⟨hi, h⟩)
    · exact .inr (.inr ⟨hi, h⟩)

/-- Every command answers a next state, in every state. -/
theorem exec_next (i : Instr) (s : State) : ∃ t, exec i s = .next t := by
  by_cases hi : i = .srst
  · subst hi; exact ⟨_, exec_srst s⟩
  · rw [exec_eq_complete hi]; exact complete_next s _

/-! ## Serialization and listings -/

/-- The model's serialization of a 64-bit value is the one the statements write out. -/
theorem be64_eq_bigEndian64 (x : BitVec 64) : be64 x = bigEndian64 x := rfl

/-- A command line is ISSUE followed by WAIT (30_encoding.md R103). -/
theorem turns_cmd (lat : Nat) (i : Instr) :
    (HostAction.cmd i).turns lat = (HostAction.issue i).turns lat ++ HostAction.wait.turns lat := rfl

@[simp] theorem commandsOf_map_cmd (is : List Instr) : commandsOf (is.map .cmd) = is := by
  simp [commandsOf, List.filterMap_map]

@[simp] theorem commandsOf_append (as bs : List HostAction) : commandsOf (as ++ bs) = commandsOf as ++ commandsOf bs :=
  List.filterMap_append ..

/-! ## Bodies -/

theorem appendKey_cases {byte : Byte} {s u : State} (h : appendKey byte s = .ok u) :
    ∃ hk : s.keylen.val < 64,
      u = { s with key := s.key.set s.keylen.val byte hk, keylen := ⟨s.keylen.val + 1, by omega⟩ } := by
  unfold appendKey at h
  split at h
  · rename_i hk; exact ⟨hk, (Except.ok.inj h).symm⟩
  · exact absurd h (by simp)

theorem appendKey_ok {byte : Byte} {s : State} (hk : s.keylen.val < 64) :
    appendKey byte s =
      .ok { s with key := s.key.set s.keylen.val byte hk, keylen := ⟨s.keylen.val + 1, by omega⟩ } := by
  simp [appendKey, hk]

theorem appendKey_full {byte : Byte} {s : State} (hk : s.keylen.val = 64) :
    appendKey byte s = .error .keyOverflow := by
  simp [appendKey, hk]

theorem computeDigest_cases {s u : State} (h : computeDigest s = .ok u) :
    s.keylen.val ≠ 0 ∧ u = { s with digest := keyedDigest s, dv := true } := by
  unfold computeDigest at h
  split at h
  · exact absurd h (by simp)
  · rename_i hk; exact ⟨hk, (Except.ok.inj h).symm⟩

/-- An encoder body changes the encoder and its slots only. -/
theorem encodeByte_frame (byte : Byte) (s : State) :
    encodeByte byte s = { s with
      eacc := (encodeByte byte s).eacc, ecnt := (encodeByte byte s).ecnt, eoutC0 := (encodeByte byte s).eoutC0
      eoutC1 := (encodeByte byte s).eoutC1, eoutN := (encodeByte byte s).eoutN } := by
  unfold encodeByte
  dsimp only
  generalize (emitGroups _ _ _).1 = out
  rcases out with _ | ⟨c, _ | ⟨d, l⟩⟩ <;> rfl

/-- What routing a byte can do (41_base32.md R160). -/
theorem routeByte_cases {k : Bool} {byte : Byte} {s u : State} (h : routeByte k byte s = .ok u) :
    (k = false ∧ u = s) ∨ (k = true ∧ appendKey byte s = .ok u) := by
  cases k
  · exact .inl ⟨rfl, (Except.ok.inj h).symm⟩
  · exact .inr ⟨rfl, h⟩

/-- A decoder body changes the decoder and its result fields, and the key buffer with K = 1 only. -/
theorem decodeChar_frame {k : Bool} {char : Byte} {strict : Bool} {s u : State}
    (h : decodeChar k char strict s = .ok u) :
    u = { s with
      key := u.key, keylen := u.keylen, dacc := u.dacc, dcnt := u.dcnt, dpad := u.dpad, doutByte := u.doutByte
      doutV := u.doutV, doutSkip := u.doutSkip, doutPadc := u.doutPadc, doutDrop := u.doutDrop } ∧
    (k = false → u.key = s.key ∧ u.keylen = s.keylen) := by
  unfold decodeChar at h
  split at h
  · split at h
    · exact absurd h (by simp)
    · unfold decodeSymbol at h
      dsimp only at h
      split at h
      · split at h
        · exact absurd h (by simp)
        · rename_i t ht
          have hu := (Except.ok.inj h).symm
          subst hu
          rcases routeByte_cases ht with ⟨rfl, rfl⟩ | ⟨rfl, ha⟩
          · exact ⟨rfl, fun _ => ⟨rfl, rfl⟩⟩
          · obtain ⟨hk, rfl⟩ := appendKey_cases ha
            exact ⟨rfl, fun hk => absurd hk (by simp)⟩
      · have hu := (Except.ok.inj h).symm
        subst hu
        exact ⟨rfl, fun _ => ⟨rfl, rfl⟩⟩
  · split at h
    · have hu := (Except.ok.inj h).symm
      subst hu
      exact ⟨rfl, fun _ => ⟨rfl, rfl⟩⟩
    · split at h
      · exact absurd h (by simp)
      · have hu := (Except.ok.inj h).symm
        subst hu
        exact ⟨rfl, fun _ => ⟨rfl, rfl⟩⟩

/-- No body but SRST's writes the bus record, CTRL, PEND, BUSY or DONE; none but it and ERR_CLR's writes ERR. -/
theorem bodyOf_frame {i : Instr} {s u : State} (h : bodyOf i s = .ok u) :
    u.bus = s.bus ∧ u.strict = s.strict ∧ u.ieDone = s.ieDone ∧ u.ieErr = s.ieErr ∧
    (i ≠ .srst → u.pend = s.pend ∧ u.busy = s.busy ∧ u.done = s.done ∧
      (i ≠ .errClr → u.err = s.err ∧ u.errcode = s.errcode)) := by
  cases i with
  | keyByte b =>
    obtain ⟨hk, rfl⟩ := appendKey_cases h
    simp
  | hmac =>
    obtain ⟨hk, rfl⟩ := computeDigest_cases h
    simp
  | dtrunc =>
    simp only [bodyOf] at h
    split at h
    · have hu := (Except.ok.inj h).symm
      subst hu; simp
    · exact absurd h (by simp)
  | hotp =>
    simp only [bodyOf] at h
    cases hc : computeDigest s with
    | error e => rw [hc] at h; exact absurd h (by simp [Except.map])
    | ok v =>
      rw [hc] at h
      obtain ⟨hk, rfl⟩ := computeDigest_cases hc
      have hu := (Except.ok.inj h).symm
      subst hu; simp
  | b32eByte b =>
    have hu := (Except.ok.inj h).symm
    rw [encodeByte_frame] at hu
    subst hu; simp
  | b32dChar k c =>
    have hu := (decodeChar_frame h).1
    rw [hu]; simp
  | srst => have hu := (Except.ok.inj h).symm; subst hu; simp [softReset]
  | _ => have hu := (Except.ok.inj h).symm; subst hu; simp

/-- A command leaves the bus record and, SRST included, CTRL as they are. -/
theorem exec_frame {i : Instr} {s t : State} (h : exec i s = .next t) :
    t.bus = s.bus ∧ t.strict = s.strict ∧ t.ieDone = s.ieDone ∧ t.ieErr = s.ieErr := by
  rcases exec_cases h with ⟨_, rfl⟩ | ⟨_, u, hu, rfl⟩ | ⟨_, e, _, rfl⟩
  · exact ⟨rfl, rfl, rfl, rfl⟩
  · obtain ⟨h1, h2, h3, h4, _⟩ := bodyOf_frame hu
    exact ⟨h1, h2, h3, h4⟩
  · exact ⟨rfl, rfl, rfl, rfl⟩

theorem exec_bus {i : Instr} {s t : State} (h : exec i s = .next t) : t.bus = s.bus := (exec_frame h).1

/-- Every command leaves PEND empty and BUSY 0. -/
theorem exec_idle {i : Instr} {s t : State} (h : exec i s = .next t) : t.pend = none ∧ t.busy = false := by
  rcases exec_cases h with ⟨_, rfl⟩ | ⟨_, u, hu, rfl⟩ | ⟨_, e, _, rfl⟩ <;> exact ⟨rfl, rfl⟩

end Sys2Proof.Machine
end

