-- ==== Sys2Proof/Laws/Base32.lean ====
section
/-!
SUPPORT. The codec's loops as arithmetic (41_base32.md R153, R162).
-/

namespace Sys2Proof.Machine

open Sys2Proof.Claims

/-- The alphabet table is the formula of 10_state.md R35. -/
theorem symbol_eq_symbolCode (x : BitVec 5) : symbol x = symbolCode x.toNat := by
  revert x; decide

/-- The character for the low 5 bits of an accumulator. -/
theorem symbol_low (a : BitVec 13) : symbol (a.setWidth 5) = symbolCode (a.toNat % 32) := by
  rw [symbol_eq_symbolCode, BitVec.toNat_setWidth]

/-- The loop of B32E_BYTE on 8 or 9 valid bits emits one character, on 10 to 12 two (the table of R153). -/
theorem emitGroups_eq (a : BitVec 13) {n : Nat} (h8 : 8 ≤ n) (h12 : n ≤ 12) :
    emitGroups a n n =
      if n < 10 then ([symbolCode (a.toNat / 2 ^ (n - 5) % 32)], n - 5)
      else ([symbolCode (a.toNat / 2 ^ (n - 5) % 32), symbolCode (a.toNat / 2 ^ (n - 10) % 32)], n - 10) := by
  obtain rfl | rfl | rfl | rfl | rfl : n = 8 ∨ n = 9 ∨ n = 10 ∨ n = 11 ∨ n = 12 := by omega
  all_goals simp [emitGroups, symbol_low, Nat.shiftRight_eq_div_pow]

/-- Appending a byte to an encoder accumulator whose high bits are clear. -/
theorem encoder_shiftIn {s : State} (h : s.eacc.toNat < 2 ^ s.ecnt.val) (byte : Byte) :
    ((s.eacc <<< 8) ||| byte.setWidth 13).toNat = s.eacc.toNat * 256 + byte.toNat := by
  have h5 : s.eacc.toNat < 2 ^ (13 - 8) :=
    lt_of_lt_of_le h (Nat.pow_le_pow_right (by decide) (by have := s.ecnt.isLt; omega))
  exact toNat_shiftIn s.eacc byte (by decide) h5

/-- Appending an index to a decoder accumulator whose high bits are clear. -/
theorem decoder_shiftIn {s : State} (h : s.dacc.toNat < 2 ^ s.dcnt.val) (x : BitVec 5) :
    ((s.dacc <<< 5) ||| x.setWidth 12).toNat = s.dacc.toNat * 32 + x.toNat := by
  have h7 : s.dacc.toNat < 2 ^ (12 - 5) :=
    lt_of_lt_of_le h (Nat.pow_le_pow_right (by decide) (by have := s.dcnt.isLt; omega))
  exact toNat_shiftIn s.dacc x (by decide) h7

end Sys2Proof.Machine
end

