-- ==== Sys2Proof/Laws/PerInstr.lean ====
section
/-!
SUPPORT. Facts stated of every command, one lemma a constructor.
-/

namespace Sys2Proof.Laws

/-- FixedBits: the command's word selects a row of the opcode map (30_encoding.md R98), the one whose pattern is its
opcode over 24 zero bits. -/
def FixedBits.Statement (i : Instr) : Prop :=
  ∃ r ∈ opTable, r.pattern = i.op ++ 0#24 ∧ r.selects (encode i) = true

theorem fixedBits_of_index {i : Instr} (n : Nat) (op : BitVec 8) (hn : n < opTable.length) (ho : i.op = op)
    (hp : opTable[n].pattern = op ++ 0#24) (hm : encode i &&& opTable[n].mask = op ++ 0#24) :
    FixedBits.Statement i :=
  ⟨opTable[n], List.getElem_mem _, by rw [hp, ho], by rw [OpRow.selects_iff, hm, hp]⟩

theorem FixedBits.nop : FixedBits.Statement .nop := fixedBits_of_index 0 0x00 (by decide) rfl (by decide) (formatN_masked _)
theorem FixedBits.srst : FixedBits.Statement .srst := fixedBits_of_index 1 0x01 (by decide) rfl (by decide) (formatN_masked _)
theorem FixedBits.errClr : FixedBits.Statement .errClr := fixedBits_of_index 2 0x02 (by decide) rfl (by decide) (formatN_masked _)
theorem FixedBits.keyClr : FixedBits.Statement .keyClr := fixedBits_of_index 3 0x10 (by decide) rfl (by decide) (formatN_masked _)
theorem FixedBits.keyByte (byte : Byte) : FixedBits.Statement (.keyByte byte) :=
  fixedBits_of_index 4 0x11 (by decide) rfl (by decide) (formatB_masked _ byte)
theorem FixedBits.ctrLd (lane : BitVec 2) (imm : BitVec 16) : FixedBits.Statement (.ctrLd lane imm) :=
  fixedBits_of_index 5 0x18 (by decide) rfl (by decide) (formatH_masked _ lane imm)
theorem FixedBits.ctrAddi (imm : BitVec 16) : FixedBits.Statement (.ctrAddi imm) :=
  fixedBits_of_index 6 0x19 (by decide) rfl (by decide) (formatI_masked _ imm)
theorem FixedBits.hmac : FixedBits.Statement .hmac := fixedBits_of_index 7 0x20 (by decide) rfl (by decide) (formatN_masked _)
theorem FixedBits.dtrunc : FixedBits.Statement .dtrunc := fixedBits_of_index 8 0x21 (by decide) rfl (by decide) (formatN_masked _)
theorem FixedBits.hotp : FixedBits.Statement .hotp := fixedBits_of_index 9 0x22 (by decide) rfl (by decide) (formatN_masked _)
theorem FixedBits.b32eClr : FixedBits.Statement .b32eClr := fixedBits_of_index 10 0x30 (by decide) rfl (by decide) (formatN_masked _)
theorem FixedBits.b32eByte (byte : Byte) : FixedBits.Statement (.b32eByte byte) :=
  fixedBits_of_index 11 0x31 (by decide) rfl (by decide) (formatB_masked _ byte)
theorem FixedBits.b32eFin : FixedBits.Statement .b32eFin := fixedBits_of_index 12 0x32 (by decide) rfl (by decide) (formatN_masked _)
theorem FixedBits.b32dClr : FixedBits.Statement .b32dClr := fixedBits_of_index 13 0x38 (by decide) rfl (by decide) (formatN_masked _)
theorem FixedBits.b32dChar (k : Bool) (char : Byte) : FixedBits.Statement (.b32dChar k char) :=
  fixedBits_of_index 14 0x39 (by decide) rfl (by decide) (formatD_masked _ k char)
theorem FixedBits.b32dFin : FixedBits.Statement .b32dFin := fixedBits_of_index 15 0x3A (by decide) rfl (by decide) (formatN_masked _)

end Sys2Proof.Laws
end

