-- ==== Sys2Proof/Laws/Port.lean ====
section
/-!
SUPPORT. What the agents' turns can do: one case lemma for the issue of a word, for a register write, for a host access,
for the engine's step and for the machine's step.
-/

namespace Sys2Proof.Machine

open Sys2Proof.Claims

/-- Everything a turn can do, the reset input's hold left out: the states after it, by name. -/
inductive TurnEffect (s : State) : Turn → State → Prop where
  | read (off : BitVec 8) (ha : off.toNat % 4 = 0) : TurnEffect s (.host (readAt off)) (regRead off s)
  | srst : TurnEffect s (.host (writeAt 0x00 0x01000000)) (softReset s)
  | overrun (w : Word) (hw : w ≠ 0x01000000) (hb : s.busy = true) :
      TurnEffect s (.host (writeAt 0x00 w)) (recordError .cmdOverrun s)
  | blocked (w : Word) (hw : w ≠ 0x01000000) (hb : s.busy = false) (he : s.err = true) (ho : acceptedInError w = false) :
      TurnEffect s (.host (writeAt 0x00 w)) s
  | accept (w : Word) (hw : w ≠ 0x01000000) (hb : s.busy = false) (he : s.err = false ∨ acceptedInError w = true) :
      TurnEffect s (.host (writeAt 0x00 w)) (accept w s)
  | writeCtrl (v : Word) : TurnEffect s (.host (writeAt 0x04 v)) (writeCtrl v s)
  | writeStatus (v : Word) : TurnEffect s (.host (writeAt 0x08 v)) (writeStatus v s)
  | ignored (off : BitVec 8) (v : Word) (ha : off.toNat % 4 = 0) (h0 : off ≠ 0x00) (h4 : off ≠ 0x04) (h8 : off ≠ 0x08) :
      TurnEffect s (.host (writeAt off v)) s
  | idle (hp : s.pend = none) : TurnEffect s .engine s
  | performed (p : Pending) (i : Instr) (t : State) (hp : s.pend = some p) (hd : decode p.word = .ok i)
      (hx : exec i s = .next t) : TurnEffect s .engine t
  | illegal (p : Pending) (r : Illegal) (hp : s.pend = some p) (hd : decode p.word = .error r) :
      TurnEffect s .engine (failed .illegalCmd s)
  | resetInput (level : Bool) :
      TurnEffect s (.resetInput level) { s with bus := { s.bus with resetPin := level } }

/-- What a CMD write can do (40_control.md R120). -/
theorem issue_cases {w : Word} {s t : State} (h : issue w s = .next t) : TurnEffect s (.host (writeAt 0x00 w)) t := by
  unfold issue at h
  split at h
  · rename_i hw
    rw [exec_srst] at h
    obtain rfl := Host.Outcome.next.inj h
    subst hw
    exact .srst
  · rename_i hw
    split at h
    · rename_i hb
      obtain rfl := Host.Outcome.next.inj h
      exact .overrun w hw hb
    · rename_i hb
      split at h
      · rename_i he
        obtain rfl := Host.Outcome.next.inj h
        simp only [Bool.and_eq_true, Bool.not_eq_true'] at he
        exact .blocked w hw (by simpa using hb) he.1 he.2
      · rename_i he
        obtain rfl := Host.Outcome.next.inj h
        refine .accept w hw (by simpa using hb) ?_
        cases h1 : s.err
        · exact .inl rfl
        · right; simpa [h1] using he

theorem issue_next (w : Word) (s : State) : ∃ t, issue w s = .next t := by
  unfold issue
  split
  · exact exec_next _ _
  · split
    · exact ⟨_, rfl⟩
    · split <;> exact ⟨_, rfl⟩

theorem offset_eq {off : BitVec 8} {n : Nat} (hn : n < 256) : off.toNat = n ↔ off = BitVec.ofNat 8 n := by
  constructor
  · rintro rfl; simp
  · rintro rfl; simpa using hn

/-- A register write outside CMD, CTRL and STATUS is ignored (20_memory.md R63). -/
theorem regWrite_eq (off : BitVec 8) (v : Word) (s : State) :
    regWrite off v s =
      if off = 0x00 then issue v s
      else if off = 0x04 then .next (writeCtrl v s)
      else if off = 0x08 then .next (writeStatus v s)
      else .next s := by
  unfold regWrite
  split
  · rename_i h; rw [offset_eq (by decide)] at h; simp [h]
  · rename_i h; rw [offset_eq (by decide)] at h; subst h; rfl
  · rename_i h; rw [offset_eq (by decide)] at h; subst h; rfl
  · rename_i h0 h4 h8
    have e0 : off ≠ 0x00 := by rintro rfl; exact h0 rfl
    have e4 : off ≠ 0x04 := by rintro rfl; exact h4 rfl
    have e8 : off ≠ 0x08 := by rintro rfl; exact h8 rfl
    simp only [e0, e4, e8, if_false]

/-- An admitted access is refused for no reason, and every other one is (R66). -/
theorem accessRefusal_none_iff (a : Access) : accessRefusal a = none ↔ Admitted a := by
  unfold accessRefusal Admitted
  split
  · rename_i h; simp [h]
  · rename_i h
    split
    · rename_i h2; simp [h2]
    · rename_i h2
      split
      · rename_i h3; simp only [ne_eq] at h3; simp; intro _ _; exact h3
      · rename_i h3; simp only [ne_eq, Decidable.not_not] at h h2 h3; simp [h, h2, h3]

theorem accessRefusal_readAt {off : BitVec 8} (h : off.toNat % 4 = 0) : accessRefusal (readAt off) = none :=
  (accessRefusal_none_iff _).2 ⟨rfl, h, rfl⟩

theorem accessRefusal_writeAt {off : BitVec 8} (h : off.toNat % 4 = 0) (v : Word) :
    accessRefusal (writeAt off v) = none :=
  (accessRefusal_none_iff _).2 ⟨rfl, h, rfl⟩

theorem hostAccess_readAt {off : BitVec 8} (h : off.toNat % 4 = 0) (s : State) :
    hostAccess (readAt off) s = .next (regRead off s) := by
  unfold hostAccess; rw [accessRefusal_readAt h]; rfl

theorem hostAccess_writeAt {off : BitVec 8} (h : off.toNat % 4 = 0) (v : Word) (s : State) :
    hostAccess (writeAt off v) s = regWrite off v s := by
  unfold hostAccess; rw [accessRefusal_writeAt h]; rfl

/-- An admitted access is a read or a write of its offset, of the one admitted form. -/
theorem admitted_eq {a : Access} (h : Admitted a) :
    (∃ off, off.toNat % 4 = 0 ∧ a = readAt off) ∨ (∃ off v, off.toNat % 4 = 0 ∧ a = writeAt off v) := by
  obtain ⟨off, width, lanes, dir⟩ := a
  obtain ⟨rfl, ho, rfl⟩ := h
  cases dir with
  | read => exact .inl ⟨off, ho, rfl⟩
  | write v => exact .inr ⟨off, v, ho, rfl⟩

/-- What a host access can do. -/
theorem hostAccess_cases {a : Access} {s t : State} (h : hostAccess a s = .next t) : TurnEffect s (.host a) t := by
  have hadm : Admitted a := by
    rw [← accessRefusal_none_iff]
    cases hr : accessRefusal a with
    | none => rfl
    | some r => simp [hostAccess, hr] at h
  rcases admitted_eq hadm with ⟨off, ho, rfl⟩ | ⟨off, v, ho, rfl⟩
  · rw [hostAccess_readAt ho] at h
    obtain rfl := Host.Outcome.next.inj h
    exact .read off ho
  · rw [hostAccess_writeAt ho, regWrite_eq] at h
    split at h
    · rename_i h0; subst h0; exact issue_cases h
    · split at h
      · rename_i h4; subst h4
        obtain rfl := Host.Outcome.next.inj h
        exact .writeCtrl v
      · split at h
        · rename_i h8; subst h8
          obtain rfl := Host.Outcome.next.inj h
          exact .writeStatus v
        · rename_i h0 h4 h8
          obtain rfl := Host.Outcome.next.inj h
          exact .ignored off v ho h0 h4 h8

/-- An admitted access answers a next state, every other one is refused (R66). -/
theorem hostAccess_next_iff (a : Access) (s : State) : (∃ t, hostAccess a s = .next t) ↔ Admitted a := by
  constructor
  · rintro ⟨t, h⟩
    rw [← accessRefusal_none_iff]
    cases hr : accessRefusal a with
    | none => rfl
    | some r => simp [hostAccess, hr] at h
  · intro h
    rcases admitted_eq h with ⟨off, ho, rfl⟩ | ⟨off, v, ho, rfl⟩
    · exact ⟨_, hostAccess_readAt ho s⟩
    · rw [hostAccess_writeAt ho, regWrite_eq]
      split
      · exact issue_next v s
      · split
        · exact ⟨_, rfl⟩
        · split <;> exact ⟨_, rfl⟩

/-- What the engine's turn can do (40_control.md R123). -/
theorem engineStep_cases {s t : State} (h : engineStep s = .next t) : TurnEffect s .engine t := by
  unfold engineStep at h
  split at h
  · rename_i hp; obtain rfl := Host.Outcome.next.inj h; exact .idle hp
  · rename_i p hp
    split at h
    · rename_i i hd; exact .performed p i t hp hd h
    · rename_i r hd
      rw [complete_error] at h
      obtain rfl := Host.Outcome.next.inj h
      exact .illegal p r hp hd

theorem engineStep_next (s : State) : ∃ t, engineStep s = .next t := by
  unfold engineStep
  split
  · exact ⟨_, rfl⟩
  · split
    · exact exec_next _ _
    · exact complete_next _ _

/-- What a turn can do, the reset input's hold left out. -/
theorem agentTurn_cases {u : Turn} {s t : State} (h : agentTurn u s = .next t) : TurnEffect s u t := by
  cases u with
  | host a => exact hostAccess_cases h
  | engine => exact engineStep_cases h
  | resetInput level => obtain rfl := Host.Outcome.next.inj h; exact .resetInput level

/-- What a step can do: the next turn, from the state without it, with the reset input's hold. -/
theorem step_cases {s t : State} (h : step s = .next t) :
    ∃ v, TurnEffect (started s) (nextTurn s) v ∧ t = holdReset (started s) v := by
  unfold step takeTurn at h
  cases hu : agentTurn (nextTurn s) (popTurn s) with
  | next v =>
    rw [hu] at h
    exact ⟨v, agentTurn_cases hu, (Host.Outcome.next.inj h).symm⟩
  | fault f => exact nomatch f
  | refused r => rw [hu] at h; exact absurd h (by simp)

/-- The bus record after a turn: what a read adds to it and the level of the reset input are all that changes. -/
theorem turnEffect_bus {u : Turn} {s t : State} (h : TurnEffect s u t) :
    (∃ off, u = .host (readAt off) ∧ t = regRead off s) ∨ (∃ level, u = .resetInput level) ∨ t.bus = s.bus := by
  cases h with
  | read off _ => exact .inl ⟨off, rfl, rfl⟩
  | resetInput level => exact .inr (.inl ⟨level, rfl⟩)
  | performed p i t hp hd hx => exact .inr (.inr (exec_bus hx))
  | srst => exact .inr (.inr rfl)
  | overrun w _ _ => exact .inr (.inr (by simp))
  | writeStatus v => exact .inr (.inr (by simp))
  | _ => exact .inr (.inr rfl)

/-- Where the reset input is released and stays so, a turn's effect is the step's. -/
theorem step_of_agentTurn {s t : State} (hr : s.bus.resetPin = false)
    (h : agentTurn (nextTurn s) (started s) = .next t) (ht : t.bus.resetPin = false) : step s = .next t := by
  have hp : popTurn s = started s := rfl
  unfold step takeTurn
  rw [hp, h]
  have hs : (started s).bus.resetPin = false := hr
  simp [holdReset, hs, ht]

theorem nextTurn_engine {s : State} (h : EngineNext s) : nextTurn s = .engine := by
  unfold nextTurn
  rcases h with h | h
  · cases hs : s.bus.turns with
    | nil => rfl
    | cons u us => rw [hs] at h; simpa using h
  · rw [h]; rfl

theorem nextTurn_host {s : State} {a : Access} (h : HostNext s a) : nextTurn s = .host a := by
  unfold nextTurn
  unfold HostNext at h
  cases hs : s.bus.turns with
  | nil => rw [hs] at h; simp at h
  | cons u us => rw [hs] at h; simpa using h

end Sys2Proof.Machine
end

