-- ==== Sys2Proof/Tests/Slice0.lean ====
section
/-!
SUPPORT. Tests: words written out from the encodings of 30_encoding.md, the worked values of 95_test_vectors.md (each
test names its section), ill-formed command lines, and a witness for the hypotheses of every statement.
-/

namespace Sys2Proof.Tests

open Sys2Proof.Machine Sys2Proof.Claims

/-! ## Helpers -/

/-- A register's value in the state an answer holds. -/
def reads (a : Answer) (off : BitVec 8) : Option Word :=
  match a with
  | .next s => some (regValue s off)
  | _ => none

/-- The state an answer holds, and `d` where it holds none. -/
def stateOr (d : State) (a : Answer) : State :=
  match a with
  | .next s => s
  | _ => d

/-- `s` with turns on its schedule. -/
def withTurns (ts : List Turn) (s : State) : State := { s with bus := { s.bus with turns := ts } }

/-- `s` with a command pending, the engine's turn next. -/
def pending (i : Instr) (s : State) : State :=
  { s with pend := some ⟨encode i, s.strict⟩, busy := true, done := false, bus := { s.bus with turns := [.engine] } }

/-- `s` with a one-byte key. -/
def oneByteKey (b : Byte) : State :=
  { State.reset with key := State.reset.key.set 0 b, keylen := 1 }

/-- The 20 ASCII bytes "12345678901234567890" of 95_test_vectors.md. -/
def rfcKey : List Byte := [
  0x31, 0x32, 0x33, 0x34, 0x35, 0x36, 0x37, 0x38, 0x39, 0x30, 0x31, 0x32, 0x33, 0x34, 0x35, 0x36, 0x37, 0x38, 0x39, 0x30]

/-- A state that holds that key, and a counter. -/
def rfcState (c : Counter) : State :=
  { State.reset with key := Vector.ofFn fun i => byteAt rfcKey i.val, keylen := 20, ctr := c }

/-- A state with an encoder accumulator. -/
def enc (acc : BitVec 13) (cnt : Fin 5) : State := { State.reset with eacc := acc, ecnt := cnt }

/-- A state with a decoder accumulator. -/
def dec (acc : BitVec 12) (cnt : Fin 8) : State := { State.reset with dacc := acc, dcnt := cnt }

/-- A state with a recorded INVALID_SECRET: STATUS = 0x026. -/
def inError : State := { State.reset with err := true, errcode := some .invalidSecret, done := true }

/-! ## Decoding: one word a constructor, its bits written from the patterns of R98 -/

theorem test_decode_nop : decode 0b00000000000000000000000000000000 = .ok .nop := by decide
theorem test_decode_srst : decode 0b00000001000000000000000000000000 = .ok .srst := by decide
theorem test_decode_errClr : decode 0b00000010000000000000000000000000 = .ok .errClr := by decide
theorem test_decode_keyClr : decode 0b00010000000000000000000000000000 = .ok .keyClr := by decide
theorem test_decode_keyByte : decode 0b00010001000000000000000010000001 = .ok (.keyByte 0x81) := by decide
theorem test_decode_ctrLd : decode 0b00011000000000101000000000000001 = .ok (.ctrLd 2 0x8001) := by decide
theorem test_decode_ctrAddi : decode 0b00011001000000001111111111111110 = .ok (.ctrAddi 0xFFFE) := by decide
theorem test_decode_hmac : decode 0b00100000000000000000000000000000 = .ok .hmac := by decide
theorem test_decode_dtrunc : decode 0b00100001000000000000000000000000 = .ok .dtrunc := by decide
theorem test_decode_hotp : decode 0b00100010000000000000000000000000 = .ok .hotp := by decide
theorem test_decode_b32eClr : decode 0b00110000000000000000000000000000 = .ok .b32eClr := by decide
theorem test_decode_b32eByte : decode 0b00110001000000000000000010000001 = .ok (.b32eByte 0x81) := by decide
theorem test_decode_b32eFin : decode 0b00110010000000000000000000000000 = .ok .b32eFin := by decide
theorem test_decode_b32dClr : decode 0b00111000000000000000000000000000 = .ok .b32dClr := by decide
theorem test_decode_b32dChar : decode 0b00111001000000000000000110000001 = .ok (.b32dChar true 0x81) := by decide
theorem test_decode_b32dFin : decode 0b00111010000000000000000000000000 = .ok .b32dFin := by decide

/-- 95 §2.1: unassigned opcodes, and must-be-zero bits set. -/
theorem test_decode_illegal :
    decode 0x03000000 = .error .unassignedOp ∧ decode 0x3B000000 = .error .unassignedOp ∧
    decode 0xFF000000 = .error .unassignedOp ∧ decode 0x00000001 = .error .mustBeZeroBit ∧
    decode 0x01000001 = .error .mustBeZeroBit ∧ decode 0x22000001 = .error .mustBeZeroBit ∧
    decode 0x11010031 = .error .mustBeZeroBit ∧ decode 0x18040000 = .error .mustBeZeroBit ∧
    decode 0x19010000 = .error .mustBeZeroBit ∧ decode 0x39000200 = .error .mustBeZeroBit := by decide

/-- 95 §2.4 and §3: words of the program listings. -/
theorem test_encode_listing_words :
    encode (.ctrLd 1 0x0235) = 0x18010235 ∧ encode (.ctrAddi (-1)) = 0x1900FFFF ∧
    encode (.b32dChar true 0x47) = 0x39000147 ∧ encode (.keyByte 0x31) = 0x11000031 := by decide

theorem test_decodeTableWord : decodeTableWord 32 0x1803ABCD = some (.ctrLd 3 0xABCD) ∧
    decodeTableWord 32 0x3B000000 = none := by decide

/-! ## Command lines (R102) -/

theorem test_wf_byte : (AsmLine.keyByte 256).wf = false ∧ (AsmLine.keyByte 255).wf = true := by decide
theorem test_wf_encoder_byte : (AsmLine.b32eByte 256).wf = false ∧ (AsmLine.b32eByte 255).wf = true := by decide
theorem test_wf_char : (AsmLine.b32dChar true 256).wf = false ∧ (AsmLine.b32dChar true 255).wf = true := by decide
theorem test_wf_lane : (AsmLine.ctrLd 4 0).wf = false ∧ (AsmLine.ctrLd 3 65535).wf = true := by decide
theorem test_wf_imm16 : (AsmLine.ctrLd 0 65536).wf = false := by decide
theorem test_wf_simm16 : (AsmLine.ctrAddi 32768).wf = false ∧ (AsmLine.ctrAddi (-32769)).wf = false ∧
    (AsmLine.ctrAddi 32767).wf = true ∧ (AsmLine.ctrAddi (-32768)).wf = true := by decide
theorem test_assemble_refuses : (AsmLine.ctrLd 4 0).assemble = none ∧
    (AsmLine.ctrAddi (-1)).assemble = some (.ctrAddi 0xFFFF) := by decide

/-- 95 §3: lines of the listings, with their comments. -/
theorem test_parse_lines :
    parseLine "KEY_BYTE '1'       ; 0x11000031".toList = some (.keyByte 0x31) ∧
    parseLine "CTR_LD 1, 0x0235        ; 0x18010235".toList = some (.ctrLd 1 0x0235) ∧
    parseLine "B32D_CHAR.K 'G'         ; 0x39000147".toList = some (.b32dChar true 0x47) ∧
    parseLine "CTR_ADDI -1".toList = some (.ctrAddi 0xFFFF) ∧
    parseLine "HOTP               ; 0x22000000".toList = some .hotp ∧
    parseLine "KEY_BYTE 256".toList = none := by decide

/-- R103: ISSUE, a read before the completion, WAIT with one poll that reads BUSY = 1, a read after it. -/
theorem test_listing_issue_wait :
    listingTurns [0, 0, 1] [.issue .hotp, .rd 0x08, .wait, .rd 0x34] = [
      cmdWrite 0x22000000, memRead 0x08, memRead 0x08, .engine, memRead 0x08, memRead 0x34] := by decide

/-- R356: a counter outside 0..2^64−1, pre-epoch or too large, is outside Generate; the largest one is inside. -/
theorem test_generateListing_range :
    generateListing [] (-1) = none ∧ generateListing [] (30 * 2 ^ 64) = none ∧
    generateListing [] (30 * 2 ^ 64 - 1) = some [
      .cmd .keyClr, .cmd .b32dClr, .cmd .b32dFin, .cmd (.ctrLd 3 0xFFFF), .cmd (.ctrLd 2 0xFFFF), .cmd (.ctrLd 1 0xFFFF),
      .cmd (.ctrLd 0 0xFFFF), .cmd .hotp, .rd 0x08, .rd 0x38, .rd 0x3C] := by decide

/-- 95 P2: KEY_B32 and CTR_SET expand to the listed words. -/
theorem test_pseudo_words :
    (Pseudo.keyB32 [0x47, 0x45]).expand.flatMap (HostAction.turns 0) =
      [cmdWrite 0x10000000, .engine, memRead 0x08, cmdWrite 0x38000000, .engine, memRead 0x08,
       cmdWrite 0x39000147, .engine, memRead 0x08, cmdWrite 0x39000145, .engine, memRead 0x08,
       cmdWrite 0x3A000000, .engine, memRead 0x08] ∧
    listingTurns [1] (Pseudo.ctrInc.expand) = [cmdWrite 0x19000001, memRead 0x08, .engine, memRead 0x08] := by decide

/-! ## Control, issue and status (95 §2.1) -/

theorem test_nop_status : reads (exec .nop State.reset) 0x08 = some 0x002 := by decide
theorem test_nop_irq : reads (exec .nop { State.reset with ieDone := true }) 0x08 = some 0x402 := by decide
theorem test_errClr_status : reads (exec .errClr inError) 0x08 = some 0x002 := by decide
theorem test_srst_clears : reads (exec .srst { rfcState 5 with err := true, errcode := some .keyOverflow }) 0x08 = some 0 ∧
    reads (exec .srst (rfcState 5)) 0x0C = some 0 := by decide
theorem test_srst_keeps_ctrl : reads (exec .srst { State.reset with strict := true, ieErr := true }) 0x04 = some 5 := by decide

theorem test_illegal_status : reads (step (State.reset.withFetchWord 32 0x03000000)) 0x08 = some 0x016 := by decide
theorem test_illegal_first : reads (step (State.reset.withFetchWord 32 0x22000001)) 0x08 = some 0x016 := by decide
theorem test_fetch_srst : reads (step ((rfcState 5).withFetchWord 32 0x01000000)) 0x0C = some 0 := by decide

/-- 95 §2.1: ISSUE NOP while HMAC is pending gives BUSY, ERR, code 6. -/
theorem test_overrun_status :
    reads (step (withTurns [cmdWrite 0] (pending .hmac (oneByteKey 0x31)))) 0x08 = some 0x065 := by decide

/-- 95 §2.1: the overrun NOP is dropped, and the pending command still completes (R124). -/
theorem test_overrun_keeps_pending :
    reads (step (pending .keyClr { oneByteKey 0x31 with err := true, errcode := some .cmdOverrun })) 0x08 = some 0x066 ∧
    reads (step (pending .keyClr { oneByteKey 0x31 with err := true, errcode := some .cmdOverrun })) 0x0C = some 0 := by decide

/-- 95 §2.1: KEY_BYTE written while ERR = 1 is discarded. -/
theorem test_blocked :
    step (withTurns [cmdWrite 0x11000031] inError) = .next inError := by rfl

/-- 95 §2.1: CLR_DONE. -/
theorem test_clear_done :
    reads (step (withTurns [memWrite 0x08 2] { State.reset with done := true, ieDone := true })) 0x08 = some 0 := by decide

/-- 95 §2.1: IE_ERR set, HMAC without a secret: DONE, ERR, code 2, IRQ. -/
theorem test_irq_on_error : reads (exec .hmac { State.reset with ieErr := true }) 0x08 = some 0x426 := by decide

theorem test_id_and_reserved : regValue State.reset 0x50 = 0x4F545031 ∧ regValue State.reset 0x54 = 0 ∧
    regValue State.reset 0xFC = 0 := by decide

/-! ## Key buffer and counter (95 §2.4) -/

theorem test_keyByte_appends : reads (exec (.keyByte 0x31) State.reset) 0x0C = some 1 ∧
    (stateOr State.reset (exec (.keyByte 0x31) State.reset)).key[0] = 0x31 := by decide
theorem test_keyByte_overflow : reads (exec (.keyByte 0x40) { State.reset with keylen := 64 }) 0x08 = some 0x046 ∧
    reads (exec (.keyByte 0x40) { State.reset with keylen := 64 }) 0x0C = some 64 := by decide
theorem test_keyClr : reads (exec .keyClr (rfcState 0)) 0x0C = some 0 ∧
    (stateOr State.reset (exec .keyClr (rfcState 0))).key[19] = 0 := by decide
theorem test_ctrLd_high : reads (exec (.ctrLd 3 0xABCD) { State.reset with ctr := 0x1122334455667788 }) 0x10
    = some 0xABCD3344 := by decide
theorem test_ctrLd_low : reads (exec (.ctrLd 0 0) { State.reset with ctr := 0x1122334455667788 }) 0x14
    = some 0x55660000 := by decide
theorem test_ctrAddi_wraps : reads (exec (.ctrAddi 0xFFFF) State.reset) 0x10 = some 0xFFFFFFFF ∧
    reads (exec (.ctrAddi 1) { State.reset with ctr := 0xFFFFFFFFFFFFFFFF }) 0x14 = some 0 := by decide
theorem test_ctrAddi_signed : reads (exec (.ctrAddi 0x8000) State.reset) 0x14 = some 0xFFFF8000 ∧
    reads (exec (.ctrAddi 0x7FFF) { State.reset with ctr := 5 }) 0x14 = some 0x00008004 := by decide

/-! ## Base32 encoder (95 §2.2) -/

theorem test_b32eByte_two : reads (exec (.b32eByte 0x00) (enc 7 3)) 0x40 = some 0x34410002 ∧
    reads (exec (.b32eByte 0x00) (enc 7 3)) 0x44 = some 0x00010000 := by decide
theorem test_b32eByte_one : reads (exec (.b32eByte 0xA5) (enc 0 1)) 0x40 = some 0x4B000001 ∧
    reads (exec (.b32eByte 0xA5) (enc 0 1)) 0x44 = some 0x00040005 := by decide
theorem test_b32eFin_pads_right : reads (exec .b32eFin (enc 6 3)) 0x40 = some 0x59000001 ∧
    reads (exec .b32eFin (enc 6 3)) 0x44 = some 0 := by decide
theorem test_b32eFin_nothing : reads (exec .b32eFin (enc 0 0)) 0x40 = some 0 := by decide
theorem test_b32eClr : reads (exec .b32eClr { enc 6 3 with eoutC0 := 0x41, eoutN := 1 }) 0x40 = some 0 ∧
    reads (exec .b32eClr (enc 6 3)) 0x44 = some 0 := by decide

/-! ## Base32 decoder (95 §2.3, 41_base32.md R161) -/

theorem test_b32dChar_byte : reads (exec (.b32dChar false 0x5A) (dec 0xC 5)) 0x48 = some 0x00000166 ∧
    reads (exec (.b32dChar false 0x5A) (dec 0xC 5)) 0x4C = some 0x00020001 := by decide
theorem test_b32dChar_pad : reads (exec (.b32dChar false 0x3D) State.reset) 0x48 = some 0x00000600 ∧
    reads (exec (.b32dChar false 0x3D) State.reset) 0x4C = some 0x00100000 := by decide
theorem test_b32dChar_strict : reads (exec (.b32dChar false 0xC4) { State.reset with strict := true }) 0x08 = some 0x036 ∧
    reads (exec (.b32dChar false 0xC4) State.reset) 0x48 = some 0x00000200 := by decide
theorem test_b32dChar_rollback : reads (exec (.b32dChar true 0x59) { dec 0xC 5 with keylen := 64 }) 0x08 = some 0x046 ∧
    reads (exec (.b32dChar true 0x59) { dec 0xC 5 with keylen := 64 }) 0x4C = some 0x0005000C := by decide
theorem test_b32dFin_drops : reads (exec .b32dFin (dec 1 2)) 0x48 = some 0x00020000 ∧
    reads (exec .b32dFin (dec 1 2)) 0x4C = some 0 := by decide
theorem test_b32dClr : reads (exec .b32dClr (dec 0xC 5)) 0x4C = some 0 ∧
    reads (exec .b32dClr (dec 0xC 5)) 0x48 = some 0 := by decide

/-! ## HMAC-SHA1 and truncation (95 §2.5, §2.6) -/

set_option maxRecDepth 20000 in
/-- 95 §2.5: the compression of the inner key block. -/
theorem test_compress_inner_key : sha1Compress hInit (innerKey rfcKey) =
    ⟨0xCBC80C8C, 0xF599E2AC, 0xBDB8C832, 0xDA95C1C3, 0xF8683025⟩ := by decide

set_option maxRecDepth 20000 in
/-- 95 §2.5: the compression of the outer key block. -/
theorem test_compress_outer_key : sha1Compress hInit (outerKey rfcKey) =
    ⟨0x98BDBDCD, 0x58E07BFE, 0xAD5CDDEA, 0x3AC0430B, 0xFE106825⟩ := by decide

set_option maxRecDepth 100000 in
/-- 95 §2.5: key 0x31, counter 0: the first and last digest words, DONE and DV. -/
theorem test_hmac_digest : reads (exec .hmac (oneByteKey 0x31)) 0x18 = some 0x91537696 ∧
    reads (exec .hmac (oneByteKey 0x31)) 0x28 = some 0x30DEE64A ∧
    reads (exec .hmac (oneByteKey 0x31)) 0x08 = some 0x102 := by decide

theorem test_hmac_no_secret : reads (exec .hmac State.reset) 0x08 = some 0x026 := by decide

set_option maxRecDepth 100000 in
/-- 95 V2 and §2.6: the RFC key at counter 1, whose selected bytes have their top bit set. -/
theorem test_hotp_code : reads (exec .hotp (rfcState 1)) 0x2C = some 0x41397EEA ∧
    reads (exec .hotp (rfcState 1)) 0x38 = some 0x32383730 ∧ reads (exec .hotp (rfcState 1)) 0x3C = some 0x38320000 ∧
    reads (exec .hotp (rfcState 1)) 0x08 = some 0x302 := by decide

/-- 95 §2.6: the digest of CTR 44, whose code has leading zeros. -/
def digest44 : Vector Byte 20 := #v[0x6C, 0x57, 0xB3, 0x22, 0x2F, 0x97, 0x38, 0xBE, 0xA0, 0xF4, 0xAB, 0x4C,
  0xBB, 0xAA, 0x0C, 0xD8, 0x35, 0x51, 0x99, 0x4C]

theorem test_dtrunc_leading_zeros :
    reads (exec .dtrunc { State.reset with digest := digest44, dv := true }) 0x2C = some 0x3BAA0CD8 ∧
    reads (exec .dtrunc { State.reset with digest := digest44, dv := true }) 0x38 = some 0x30303031 ∧
    reads (exec .dtrunc { State.reset with digest := digest44, dv := true }) 0x3C = some 0x35320000 := by decide

theorem test_dtrunc_no_digest : reads (exec .dtrunc State.reset) 0x08 = some 0x056 := by decide

end Sys2Proof.Tests
end

