-- ==== Sys2Proof/Tests/Witnesses.lean ====
section
/-!
SUPPORT. For every statement with hypotheses, a concrete state and operands that meet all of them; for a statement of
several clauses, one for each clause, at a boundary of its range.
-/

namespace Sys2Proof.Tests

open Sys2Proof.Machine Sys2Proof.Claims

/-! ## Encoding -/

theorem witness_DecodeOfEncodeIsIdentity : (Instr.ctrLd 3 0xFFFF).wf = true := by decide

theorem witness_EncodeOfDecodeIsIdentity : decode 0x1803FFFF = .ok (.ctrLd 3 0xFFFF) := by decide

/-! ## Steps -/

theorem witness_StepRunsThePendingCommand :
    (pending .hmac (oneByteKey 0x31)).bus.resetPin = false ∧ EngineNext (pending .hmac (oneByteKey 0x31)) ∧
    (pending .hmac (oneByteKey 0x31)).pend = some ⟨0x20000000, false⟩ ∧ decode 0x20000000 = .ok .hmac :=
  ⟨rfl, .inl rfl, rfl, by decide⟩

theorem witness_SrstRunsAtItsWrite :
    (withTurns [cmdWrite 0x01000000] (pending .hmac inError)).bus.resetPin = false ∧
    HostNext (withTurns [cmdWrite 0x01000000] (pending .hmac inError)) (writeAt 0x00 0x01000000) := ⟨rfl, rfl⟩

theorem witness_CommandWriteRule_srst :
    (withTurns [cmdWrite 0x01000000] inError).bus.resetPin = false ∧
    HostNext (withTurns [cmdWrite 0x01000000] inError) (writeAt 0x00 0x01000000) := ⟨rfl, rfl⟩

theorem witness_CommandWriteRule_overrun :
    (withTurns [cmdWrite 0x01000001] (pending .nop State.reset)).bus.resetPin = false ∧
    HostNext (withTurns [cmdWrite 0x01000001] (pending .nop State.reset)) (writeAt 0x00 0x01000001) ∧
    (0x01000001 : Word) ≠ 0x01000000 ∧ (withTurns [cmdWrite 0x01000001] (pending .nop State.reset)).busy = true :=
  ⟨rfl, rfl, by decide, rfl⟩

theorem witness_CommandWriteRule_blocked :
    HostNext (withTurns [cmdWrite 0x01000001] inError) (writeAt 0x00 0x01000001) ∧ inError.busy = false ∧
    inError.err = true ∧ (0x01000001 : Word).extractLsb' 24 8 ≠ 0x00 ∧ (0x01000001 : Word).extractLsb' 24 8 ≠ 0x02 ∧
    (0x01000001 : Word) ≠ 0x01000000 ∧ inError.bus.resetPin = false :=
  ⟨rfl, rfl, rfl, by decide, by decide, by decide, rfl⟩

theorem witness_CommandWriteRule_accepted :
    HostNext (withTurns [cmdWrite 0x02000001] inError) (writeAt 0x00 0x02000001) ∧ inError.busy = false ∧
    inError.err = true ∧ (0x02000001 : Word).extractLsb' 24 8 = 0x02 ∧ (0x02000001 : Word) ≠ 0x01000000 ∧
    inError.bus.resetPin = false := ⟨rfl, rfl, rfl, by decide, by decide, rfl⟩

theorem witness_EngineTurnOnIllegalOrNothing_illegal :
    let s := { State.reset with pend := some ⟨0x01000001, false⟩, busy := true }
    s.bus.resetPin = false ∧ EngineNext s ∧ s.pend = some ⟨0x01000001, false⟩ ∧
    decode 0x01000001 = .error .mustBeZeroBit := ⟨rfl, .inr rfl, rfl, by decide⟩

theorem witness_EngineTurnOnIllegalOrNothing_nothing :
    State.reset.bus.resetPin = false ∧ EngineNext State.reset ∧ State.reset.pend = none := ⟨rfl, .inr rfl, rfl⟩

theorem witness_FailingCommandChangesOnlyStatus :
    exec .hmac { inError with err := false, errcode := none } =
      .next (failed .invalidSecret { inError with err := false, errcode := none }) ∧
    (failed .invalidSecret { inError with err := false, errcode := none }).err = true := ⟨rfl, rfl⟩

theorem witness_FirstErrorIsKept_kept :
    step (pending .hmac inError) = .next (failed .invalidSecret (withTurns [] (pending .hmac inError))) ∧
    (pending .hmac inError).err = true ∧ (failed .invalidSecret (withTurns [] (pending .hmac inError))).err = true :=
  ⟨rfl, rfl, rfl⟩

theorem witness_FirstErrorIsKept_cleared :
    (step (pending .errClr inError) = .next { inError with err := false, errcode := none }) ∧
    (pending .errClr inError).err = true := ⟨rfl, rfl⟩

theorem statusInv_pending_hmac : StatusInv (withTurns [] (pending .hmac State.reset)) where
  busy_iff_pending := rfl
  err_iff_code := rfl
  done_not_busy := fun _ => rfl
  srst_not_pending := by rintro p ⟨rfl⟩; decide

theorem statusInv_busy (ts : List Turn) : StatusInv (withTurns ts (pending .hmac State.reset)) where
  busy_iff_pending := rfl
  err_iff_code := rfl
  done_not_busy := fun _ => rfl
  srst_not_pending := statusInv_pending_hmac.srst_not_pending

theorem witness_PendingCommandCompletes :
    StatusInv (withTurns [memRead 0x08, .engine, memRead 0xFC] (pending .hmac State.reset)) ∧
    ∀ a, Turn.host a ∈ (withTurns [memRead 0x08, .engine, memRead 0xFC] (pending .hmac State.reset)).bus.turns →
      Admitted a := by
  refine ⟨statusInv_busy _, fun a h => ?_⟩
  simp only [withTurns, List.mem_cons, memRead, Turn.host.injEq, List.not_mem_nil, or_false, reduceCtorEq, false_or] at h
  rcases h with rfl | rfl <;> exact ⟨rfl, by decide, rfl⟩

theorem witness_PendingCommandCompletes_performed :
    let s := withTurns ([memWrite 0x00 0x22000000, memWrite 0x04 7] ++ [.engine, memRead 0x08]) (pending .hmac State.reset)
    StatusInv s ∧ s.bus.resetPin = false ∧ s.pend = some ⟨0x20000000, false⟩ ∧
    s.bus.turns = [memWrite 0x00 0x22000000, memWrite 0x04 7] ++ [.engine, memRead 0x08] ∧
    ([Turn.engine, memRead 0x08] = [] ∨ [Turn.engine, memRead 0x08].head? = some .engine) ∧
    ∀ u ∈ [memWrite 0x00 0x22000000, memWrite 0x04 7], ∃ a, u = .host a ∧ Admitted a ∧ a ≠ writeAt 0x00 0x01000000 := by
  refine ⟨statusInv_busy _, rfl, rfl, rfl, .inr rfl, fun u h => ?_⟩
  simp only [List.mem_cons, List.not_mem_nil, or_false] at h
  rcases h with rfl | rfl
  · exact ⟨writeAt 0x00 0x22000000, rfl, ⟨rfl, by decide, rfl⟩, by decide⟩
  · exact ⟨writeAt 0x04 7, rfl, ⟨rfl, by decide, rfl⟩, by decide⟩

theorem witness_StatusReadTellsPending :
    StatusInv (withTurns [memRead 0x08] (pending .hmac State.reset)) ∧
    (withTurns [memRead 0x08] (pending .hmac State.reset)).bus.resetPin = false ∧
    HostNext (withTurns [memRead 0x08] (pending .hmac State.reset)) (readAt 0x08) :=
  ⟨statusInv_busy _, rfl, rfl⟩

theorem witness_CommandLineRunsTheCommand :
    let s := withTurns ((HostAction.cmd (.keyByte 0x31)).turns 2) State.reset
    Instr.keyByte 0x31 ≠ .srst ∧ s.bus.resetPin = false ∧ s.busy = false ∧ s.err = false ∧
    s.bus.turns = (HostAction.cmd (.keyByte 0x31)).turns 2 := ⟨by decide, rfl, rfl, rfl, rfl⟩

/-! ## The port -/

theorem witness_OnlyAdmittedAccessesArePerformed_admitted :
    HostNext (withTurns [memRead 0xFC] State.reset) (readAt 0xFC) ∧ Admitted (readAt 0xFC) :=
  ⟨rfl, rfl, by decide, rfl⟩

theorem witness_OnlyAdmittedAccessesArePerformed_refused :
    HostNext (withTurns [.host ⟨0xFE, .word, 0xF, .read⟩] State.reset) ⟨0xFE, .word, 0xF, .read⟩ ∧
    ¬ Admitted ⟨0xFE, .word, 0xF, .read⟩ ∧ ¬ Admitted ⟨0x00, .byte, 0x1, .read⟩ ∧
    ¬ Admitted ⟨0x00, .half, 0x3, .write 0⟩ ∧ ¬ Admitted ⟨0x00, .word, 0x7, .read⟩ := by
  refine ⟨rfl, ?_, ?_, ?_, ?_⟩ <;> (rintro ⟨h1, h2, h3⟩; revert h1 h2 h3; decide)

theorem witness_ReadReturnsTheRegisterMap_listed :
    let s := withTurns [memRead 0x50] State.reset
    s.bus.resetPin = false ∧ s.busy = false ∧ (0x50 : BitVec 8).toNat % 4 = 0 ∧ HostNext s (readAt 0x50) ∧
    ((0x50 : BitVec 8), (0x4F545031 : Word)) ∈ registerMap s :=
  ⟨rfl, rfl, by decide, rfl, by simp [registerMap]⟩

theorem witness_ReadReturnsTheRegisterMap_reserved :
    let s := withTurns [memRead 0x54] State.reset
    s.bus.resetPin = false ∧ s.busy = false ∧ (0x54 : BitVec 8).toNat % 4 = 0 ∧ HostNext s (readAt 0x54) ∧
    ∀ e ∈ registerMap s, e.1 ≠ 0x54 := ⟨rfl, rfl, by decide, rfl, by simp [registerMap]⟩

theorem witness_BusyReadIsADraw_draw :
    let s := withTurns [memRead 0x00] (pending .hmac State.reset)
    s.bus.resetPin = false ∧ s.busy = true ∧ (0x00 : BitVec 8).toNat % 4 = 0 ∧ HostNext s (readAt 0x00) ∧
    (0x00 : BitVec 8) ≠ 0x04 ∧ (0x00 : BitVec 8) ≠ 0x08 ∧ (0x00 : BitVec 8) ≠ 0x50 :=
  ⟨rfl, rfl, by decide, rfl, by decide, by decide, by decide⟩

theorem witness_BusyReadIsADraw_promised :
    let s := withTurns [memRead 0x50] (pending .hmac State.reset)
    s.bus.resetPin = false ∧ s.busy = true ∧ (0x50 : BitVec 8).toNat % 4 = 0 ∧ HostNext s (readAt 0x50) :=
  ⟨rfl, rfl, by decide, rfl⟩

theorem witness_WritesBesideCmd_ctrl :
    let s := withTurns [memWrite 0x04 7] (pending .hmac State.reset)
    s.bus.resetPin = false ∧ (0x04 : BitVec 8).toNat % 4 = 0 ∧ (0x04 : BitVec 8) ≠ 0x00 ∧ HostNext s (writeAt 0x04 7) :=
  ⟨rfl, by decide, by decide, rfl⟩

theorem witness_WritesBesideCmd_status :
    let s := withTurns [memWrite 0x08 0xFFFFFFFD] inError
    s.bus.resetPin = false ∧ (0x08 : BitVec 8).toNat % 4 = 0 ∧ (0x08 : BitVec 8) ≠ 0x00 ∧
    HostNext s (writeAt 0x08 0xFFFFFFFD) := ⟨rfl, by decide, by decide, rfl⟩

theorem witness_WritesBesideCmd_ignored :
    let s := withTurns [memWrite 0xFC 7] State.reset
    s.bus.resetPin = false ∧ (0xFC : BitVec 8).toNat % 4 = 0 ∧ (0xFC : BitVec 8) ≠ 0x00 ∧ HostNext s (writeAt 0xFC 7) :=
  ⟨rfl, by decide, by decide, rfl⟩

theorem witness_WindowStartsAtBase :
    Config.base + 256 < Config.base ∨ Config.base + 256 ≤ Config.base + 256 := .inr (Nat.le_refl _)

theorem witness_ResetInputHoldsReset :
    let s := withTurns [.resetInput true] (rfcState 7)
    ∃ t, step s = .next t ∧ (s.bus.resetPin = true ∨ t.bus.resetPin = true) := ⟨_, rfl, .inr rfl⟩

theorem witness_IrqFollowsEnabledSources :
    let s := withTurns [memWrite 0x04 4] inError
    s.bus.resetPin = false ∧ HostNext s (writeAt 0x04 4) := ⟨rfl, rfl⟩

theorem witness_SrstRunsAtItsWrite_illegal :
    (0x01000001 : Word).extractLsb' 24 8 = 0x01 ∧ (0x01000001 : Word).extractLsb' 0 24 ≠ 0 := by decide

/-- The hypotheses of the `CompletesAs` clause of a command's statement, for each opcode and the words of it with no
must-be-0 bit set and with bit 23, which every format requires to be 0, set. -/
theorem witness_CompletesAs :
    ∀ op ∈ [0x00#8, 0x02#8, 0x10#8, 0x11#8, 0x18#8, 0x19#8, 0x20#8, 0x21#8, 0x22#8, 0x30#8, 0x31#8, 0x32#8, 0x38#8, 0x39#8,
      0x3A#8], ∀ w ∈ [op ++ 0#24, op ++ 0x800000#24],
      let s := { State.reset with pend := some ⟨w, false⟩, busy := true }
      s.bus.resetPin = false ∧ EngineNext s ∧ s.pend = some ⟨w, false⟩ ∧ w.extractLsb' 24 8 = op := by
  intro op _ w hw
  refine ⟨rfl, .inr rfl, rfl, ?_⟩
  simp only [List.mem_cons, List.not_mem_nil, or_false] at hw
  apply BitVec.eq_of_getLsbD_eq
  intro i hi
  rcases hw with rfl | rfl <;> simp only [BitVec.getLsbD_extractLsb', BitVec.getLsbD_append] <;> simp [hi]

/-! ## Commands -/

theorem witness_KeyByteAppendsOrOverflows : ({ State.reset with keylen := 63 } : State).keylen.val < 64 ∧
    ({ State.reset with keylen := 64 } : State).keylen.val = 64 := ⟨by decide, rfl⟩

theorem witness_LoadedSecretIsTheString : (List.replicate 64 (0x41 : Byte)).length ≤ 64 := by decide

theorem witness_MessageScheduleRecurrence : (List.replicate 64 (0x36 : Byte)).length = 64 ∧ 15 < 16 ∧ 16 ≤ 16 ∧ 79 < 80 := by
  decide

theorem witness_FixedPlanIsHmac : 1 ≤ ([0x31] : List Byte).length ∧ ([0x31] : List Byte).length ≤ 64 ∧
    (List.replicate 64 (0x41 : Byte)).length ≤ 64 := by decide

theorem witness_TrailingZeroKeyBytesDoNotMatter : (List.replicate 63 (0x41 : Byte)).length + 1 ≤ 64 := by decide

theorem witness_HmacWritesTheDigest : (oneByteKey 0x31).keylen.val ≠ 0 ∧ State.reset.keylen.val = 0 := ⟨by decide, rfl⟩

theorem witness_DtruncTruncatesTheDigest :
    ({ State.reset with digest := digest44, dv := true } : State).dv = true ∧ State.reset.dv = false := ⟨rfl, rfl⟩

theorem witness_HotpIsHmacThenDtrunc : (rfcState 1).keylen.val ≠ 0 ∧ State.reset.keylen.val = 0 := ⟨by decide, rfl⟩

theorem witness_HotpProgramComputesTheCode : 1 ≤ rfcKey.length ∧ rfcKey.length ≤ 64 := by decide

theorem witness_EncoderClearAndFlush : (enc 15 4).eacc.toNat < 2 ^ (enc 15 4).ecnt.val ∧
    (enc 0 0).eacc.toNat < 2 ^ (enc 0 0).ecnt.val := by decide

theorem witness_EncoderTakesOneByte : (enc 15 4).eacc.toNat < 2 ^ (enc 15 4).ecnt.val ∧
    (enc 1 1).eacc.toNat < 2 ^ (enc 1 1).ecnt.val := by decide

theorem witness_DecoderTakesOneSymbol_kept :
    (dec 3 2).dacc.toNat < 2 ^ (dec 3 2).dcnt.val ∧ 31 < 32 ∧ normChar 0x37 = symbolCode 31 ∧
    (latchedStrict (dec 3 2) = false ∨ (dec 3 2).dpad = false) ∧ (dec 3 2).dcnt.val + 5 < 8 :=
  ⟨by decide, by decide, by decide, .inl rfl, by decide⟩

theorem witness_DecoderTakesOneSymbol_produced :
    let s := { dec 7 3 with keylen := 63, strict := true }
    s.dacc.toNat < 2 ^ s.dcnt.val ∧ normChar 0x7A = symbolCode 25 ∧ (latchedStrict s = false ∨ s.dpad = false) ∧
    8 ≤ s.dcnt.val + 5 ∧ s.keylen.val < 64 := ⟨by decide, by decide, .inr rfl, by decide, by decide⟩

theorem witness_DecoderTakesOneSymbol_overflow :
    let s := { dec 7 3 with keylen := 64 }
    s.dacc.toNat < 2 ^ s.dcnt.val ∧ normChar 0x41 = symbolCode 0 ∧ (latchedStrict s = false ∨ s.dpad = false) ∧
    8 ≤ s.dcnt.val + 5 ∧ s.keylen.val = 64 := ⟨by decide, by decide, .inl rfl, by decide, rfl⟩

theorem witness_DecoderSkipsOrRejects :
    inAlpha (normChar 0x31) = false ∧ (0x31 : Byte) ≠ 0x3D ∧ latchedStrict State.reset = false ∧
    inAlpha (normChar 0x38) = false ∧ (0x38 : Byte) ≠ 0x3D ∧ latchedStrict { State.reset with strict := true } = true ∧
    inAlpha (normChar 0x61) = true ∧ ({ State.reset with strict := true, dpad := true } : State).dpad = true ∧
    latchedStrict { State.reset with strict := true, dpad := true } = true := by decide

theorem witness_PolicyIsLatchedAtAcceptance :
    ∃ t, ({ State.reset with pend := some ⟨0x39000031, true⟩ } : State).pend = some ⟨0x39000031, true⟩ ∧
      inAlpha (normChar 0x31) = false ∧ (0x31 : Byte) ≠ 0x3D ∧
      exec (.b32dChar false 0x31) { State.reset with pend := some ⟨0x39000031, true⟩ } = .next t :=
  ⟨_, rfl, by decide, by decide, rfl⟩

/-- Both latched policies, each against the other value of CTRL.STRICT, on a character of the alphabet after a `=`. -/
theorem witness_PolicyIsLatchedAtAcceptance_afterPad :
    let s := { State.reset with pend := some ⟨0x39000061, true⟩, dpad := true }
    let u := { State.reset with pend := some ⟨0x39000061, false⟩, dpad := true, strict := true }
    s.pend = some ⟨0x39000061, true⟩ ∧ u.pend = some ⟨0x39000061, false⟩ ∧ inAlpha (normChar 0x61) = true ∧
    s.dpad = true ∧ u.dpad = true := by decide

theorem witness_PermissiveNeverRejects :
    let s := { State.reset with err := true, errcode := some .invalidEncoding }
    ∃ t, latchedStrict s = false ∧ exec (.b32dChar false 0x31) s = .next t ∧ t.errcode = some .invalidEncoding :=
  ⟨_, rfl, rfl, rfl⟩

theorem witness_DecodingUndoesEncoding :
    ∃ t, runCommands emitted (encodeCommands [0x66]) State.reset = some ([0x4D, 0x59], t) := ⟨_, rfl⟩

theorem witness_TextLoadsTheKey : (List.replicate 64 (0x41 : Byte)).length ≤ 64 := by decide

/-! ## The whole machine -/

theorem witness_ElementsChange_key : ∃ t, step (pending (.b32dChar true 0x41) (dec 7 3)) = .next t ∧
    t.bus.resetPin = false ∧ t.keylen ≠ (pending (.b32dChar true 0x41) (dec 7 3)).keylen := ⟨_, rfl, rfl, by decide⟩

theorem witness_ElementsChange_ctr : ∃ t, step (pending (.ctrAddi 1) State.reset) = .next t ∧
    t.bus.resetPin = false ∧ t.ctr ≠ (pending (.ctrAddi 1) State.reset).ctr := ⟨_, rfl, rfl, by decide⟩

theorem witness_ElementsChange_digest : ∃ t, step (pending .hmac (oneByteKey 0x31)) = .next t ∧
    t.bus.resetPin = false ∧ t.dv ≠ (pending .hmac (oneByteKey 0x31)).dv := ⟨_, rfl, rfl, by decide⟩

theorem witness_ElementsChange_result : ∃ t, step (pending .dtrunc { State.reset with dv := true }) = .next t ∧
    t.bus.resetPin = false ∧ t.cv ≠ (pending .dtrunc { State.reset with dv := true }).cv := ⟨_, rfl, rfl, by decide⟩

theorem witness_ElementsChange_encoder : ∃ t, step (pending .b32eFin (enc 1 1)) = .next t ∧
    t.bus.resetPin = false ∧ t.ecnt ≠ (pending .b32eFin (enc 1 1)).ecnt := ⟨_, rfl, rfl, by decide⟩

theorem witness_ElementsChange_decoder : ∃ t, step (pending .b32dFin (dec 1 1)) = .next t ∧
    t.bus.resetPin = false ∧ t.doutDrop ≠ (pending .b32dFin (dec 1 1)).doutDrop := ⟨_, rfl, rfl, by decide⟩

theorem witness_ElementsChange_ctrl : ∃ t, step (withTurns [memWrite 0x04 1] State.reset) = .next t ∧
    t.bus.resetPin = false ∧ t.strict ≠ (withTurns [memWrite 0x04 1] State.reset).strict := ⟨_, rfl, rfl, by decide⟩

theorem witness_ElementsChange_accept : Accepts (withTurns [memWrite 0x00 0x02000000] inError) 0x02000000 ∧
    ∃ t, step (withTurns [memWrite 0x00 0x02000000] inError) = .next t ∧ t.bus.resetPin = false ∧ t.busy = true ∧
      t.done ≠ inError.done := ⟨⟨rfl, by decide, rfl, .inr (.inr (by decide))⟩, _, rfl, rfl, rfl, by decide⟩

theorem witness_ElementsChange_overrun :
    Overruns (withTurns [memWrite 0x00 0] (pending .hmac State.reset)) 0 ∧
    ∃ t, step (withTurns [memWrite 0x00 0] (pending .hmac State.reset)) = .next t ∧ t.bus.resetPin = false ∧ t.err = true :=
  ⟨⟨rfl, by decide, rfl, rfl⟩, _, rfl, rfl, rfl⟩

theorem witness_ElementsChange_complete : Completes (pending .hmac State.reset) ∧
    ∃ t, step (pending .hmac State.reset) = .next t ∧ t.bus.resetPin = false ∧ t.busy = false ∧ t.err = true :=
  ⟨⟨.inl rfl, rfl⟩, _, rfl, rfl, rfl, rfl⟩

theorem witness_CodecIsIndependent_decoder :
    (State.reset.pend = none ∧ State.reset.err = false) ∧ (Instr.keyByte 7 ≠ .srst ∧ Instr.keyByte 7 ≠ .b32dClr ∧
      (∀ k c, Instr.keyByte 7 ≠ .b32dChar k c) ∧ Instr.keyByte 7 ≠ .b32dFin) ∧
    ∃ t u t' u', exec (.b32dChar false 0x41) State.reset = .next t ∧ t.err = false ∧
      exec (.keyByte 7) t = .next u ∧ exec (.keyByte 7) State.reset = .next t' ∧ t'.err = false ∧ exec (.b32dChar false 0x41) t' = .next u' :=
  ⟨⟨rfl, rfl⟩, by decide, _, _, _, _, rfl, rfl, rfl, rfl, rfl, rfl⟩

theorem witness_CodecIsIndependent_encoder :
    State.reset.pend = none ∧ (Instr.keyByte 1 ≠ .srst ∧ Instr.keyByte 1 ≠ .b32eClr ∧ (∀ b, Instr.keyByte 1 ≠ .b32eByte b) ∧
      Instr.keyByte 1 ≠ .b32eFin) ∧
    ∃ t u t' u', exec (.b32eByte 0x66) State.reset = .next t ∧ exec (.keyByte 1) t = .next u ∧
      exec (.keyByte 1) State.reset = .next t' ∧ exec (.b32eByte 0x66) t' = .next u' :=
  ⟨rfl, by decide, _, _, _, _, rfl, rfl, rfl, rfl⟩

theorem witness_StepKeepsInvariants : Inv { State.reset with strict := true } ∧
    ∃ t, step { State.reset with strict := true } = .next t := by
  refine ⟨⟨⟨rfl, rfl, fun _ => rfl, by rintro p ⟨⟩⟩, by unfold KeyInv; decide, ⟨by decide, fun _ => rfl, fun _ => rfl⟩,
    ⟨by decide, fun _ => rfl, by decide, by decide, by decide⟩,
    ⟨rfl, fun h => (nomatch h), fun h => (nomatch h), fun _ => ⟨rfl, rfl, rfl⟩, fun _ => rfl⟩⟩, _, rfl⟩

/-! ## The hash functions -/

theorem witness_CompressionIsSha1 : (List.replicate 64 (0x36 : Byte)).length = 64 ∧ 79 < 80 := by decide

theorem witness_HmacIsBuiltOnSha1 : 0 < (sha1Pad []).length / 64 ∧ 1 ≤ ([0x31] : List Byte).length ∧
    (List.replicate 64 (0x41 : Byte)).length ≤ 64 := by decide

end Sys2Proof.Tests
end

section
/-! Which host accesses the block performs (20_memory.md R66), from one access at the port to the whole step. -/

namespace Sys2Proof.Machine

open Sys2Proof.Claims

/-- A next state of the next turn is the step's, under the reset input's hold. -/
theorem step_next_of_agentTurn {s t : State} (h : agentTurn (nextTurn s) (started s) = .next t) :
    step s = .next (holdReset (started s) t) := by
  have hp : popTurn s = started s := rfl
  unfold step takeTurn
  rw [hp, h]

/-- The reset input's hold does not touch a refusal: the step answers it as the turn does. -/
theorem step_refused_of_agentTurn {s : State} {r : Refusal}
    (h : agentTurn (nextTurn s) (started s) = .refused r) : step s = .refused r := by
  have hp : popTurn s = started s := rfl
  unfold step takeTurn
  rw [hp, h]

theorem agentTurn_of_hostNext {s : State} {a : Access} (h : HostNext s a) :
    agentTurn (nextTurn s) (started s) = hostAccess a (started s) := by
  rw [nextTurn_host h]; rfl

theorem hostAccess_refused_of_not_admitted {a : Access} (h : ¬ Admitted a) (s : State) :
    ∃ r, hostAccess a s = .refused r := by
  cases hr : accessRefusal a with
  | none => exact absurd ((accessRefusal_none_iff a).1 hr) h
  | some r => exact ⟨r, by simp [hostAccess, hr]⟩

/-- Settles O17: an access is performed at the port exactly when it is admitted, and the step answers as the port does. -/
theorem onlyAdmittedAccessesArePerformed : Obligations.OnlyAdmittedAccessesArePerformed := by
  intro s a hnext
  have hturn := agentTurn_of_hostNext hnext
  constructor
  · intro hadm
    obtain ⟨t, ht⟩ := (hostAccess_next_iff a (started s)).2 hadm
    exact ⟨_, step_next_of_agentTurn (hturn.trans ht)⟩
  · intro hnot
    obtain ⟨r, hr⟩ := hostAccess_refused_of_not_admitted hnot (started s)
    exact ⟨r, step_refused_of_agentTurn (hturn.trans hr)⟩

end Sys2Proof.Machine
end

section
/-! A command word from its CMD write to its completion (40_control.md R120, R123): each turn of the host and of the
engine as the whole step, the branches of `issue`, and the row of the opcode map that a completion runs. -/

namespace Sys2Proof.Machine

open Sys2Proof.Claims

/-! ## The step of a CMD write and of the engine's turn -/

/-- Where the reset input is released, a turn of the host or of the engine leaves it so: the step answers as the turn. -/
theorem step_eq_agentTurn {s : State} (hr : s.bus.resetPin = false) (hturn : ∀ level, nextTurn s ≠ .resetInput level) :
    step s = agentTurn (nextTurn s) (started s) := by
  cases h : agentTurn (nextTurn s) (started s) with
  | next t =>
    refine step_of_agentTurn hr h ?_
    rcases turnEffect_bus (agentTurn_cases h) with ⟨_, _, rfl⟩ | ⟨level, hreset⟩ | hbus
    · exact hr
    · exact absurd hreset (hturn level)
    · rw [hbus]; exact hr
  | fault f => exact nomatch f
  | refused r => exact step_refused_of_agentTurn h

theorem step_of_cmdWrite {s : State} {w : Word} (hr : s.bus.resetPin = false) (h : HostNext s (writeAt 0x00 w)) :
    step s = issue w (started s) := by
  rw [step_eq_agentTurn hr (by simp [nextTurn_host h]), agentTurn_of_hostNext h, hostAccess_writeAt (by decide),
    regWrite_eq, if_pos rfl]

theorem step_of_engineNext {s : State} (hr : s.bus.resetPin = false) (h : EngineNext s) :
    step s = engineStep (started s) := by
  rw [step_eq_agentTurn hr (by simp [nextTurn_engine h]), nextTurn_engine h]
  rfl

/-! ## The branches of R120 -/

theorem acceptedInError_iff (w : Word) :
    acceptedInError w = true ↔ w.extractLsb' 24 8 = 0x00 ∨ w.extractLsb' 24 8 = 0x02 := by
  simp [acceptedInError, opField]

theorem issue_srst (s : State) : issue srstWord s = exec .srst s := if_pos rfl

theorem issue_busy {w : Word} {s : State} (hw : w ≠ srstWord) (hb : s.busy = true) :
    issue w s = .next (recordError .cmdOverrun s) := by
  simp [issue, hw, hb]

theorem issue_blocked {w : Word} {s : State} (hw : w ≠ srstWord) (hb : s.busy = false) (he : s.err = true)
    (ho : acceptedInError w = false) : issue w s = .next s := by
  simp [issue, hw, hb, he, ho]

theorem issue_accepted {w : Word} {s : State} (hw : w ≠ srstWord) (hb : s.busy = false)
    (he : s.err = false ∨ acceptedInError w = true) : issue w s = .next (accept w s) := by
  rcases he with he | ho
  · simp [issue, hw, hb, he]
  · simp [issue, hw, hb, ho]

/-- Settles O10: a CMD write takes the one of `issue`'s four branches that its word and the state select. -/
theorem commandWriteRule : Obligations.CommandWriteRule := by
  intro s w hr hnext u
  have hstep : step s = issue w u := step_of_cmdWrite hr hnext
  refine ⟨?srst, ?overrun, ?blocked, ?accepted⟩
  case srst =>
    rintro rfl
    exact hstep.trans (issue_srst u)
  case overrun =>
    intro hw hb
    exact hstep.trans (issue_busy hw hb)
  case blocked =>
    intro hw hb he h0 h2
    have ho : acceptedInError w = false := by
      rw [← Bool.not_eq_true, acceptedInError_iff]
      exact not_or.2 ⟨h0, h2⟩
    exact hstep.trans (issue_blocked hw hb he ho)
  case accepted =>
    intro hw hb he
    exact hstep.trans (issue_accepted hw hb (he.imp_right (acceptedInError_iff w).2))

/-! ## The words of SRST (R101) -/

/-- A word is SRST exactly when it is SRST's one encoding: no other row builds SRST, and its mask fixes every bit. -/
theorem decode_srst_iff (w : Word) : decode w = .ok .srst ↔ w = srstWord := by
  have hmask : w &&& 0xFFFFFFFF#32 = w := BitVec.and_allOnes
  rw [decode_ok_iff]
  simp [opTable, OpRow.selects_iff, hmask, srstWord]

theorem extractLsb'_low24_eq_zero {w : Word} (h : w &&& 0x00FFFFFF = 0) : w.extractLsb' 0 24 = 0 := by
  have hmask : (0x00FFFFFF : Word).extractLsb' 0 24 = BitVec.allOnes 24 := by decide
  have hlow := congrArg (BitVec.extractLsb' 0 24) h
  rw [BitVec.extractLsb'_and, hmask, BitVec.and_allOnes] at hlow
  exact hlow

/-- Settles O8: the CMD write of SRST's word is `issue`'s first branch, and only that word decodes to SRST. -/
theorem srstRunsAtItsWrite : Obligations.SrstRunsAtItsWrite := by
  refine ⟨?runs, decode_srst_iff, ?illegal⟩
  case runs =>
    intro s hr hnext
    have hstep : step s = exec .srst (started s) := (step_of_cmdWrite hr hnext).trans (issue_srst _)
    exact ⟨hstep, hstep.trans (exec_srst _)⟩
  case illegal =>
    intro w hop hlow
    have hrow : opField w = opField opTable[1].pattern := hop.trans (by decide)
    rw [decode_of_op (zero := 0x00FFFFFF) (List.getElem_mem _) hrow (by decide) (by decide) (by decide),
      if_neg (mt extractLsb'_low24_eq_zero hlow)]

/-! ## The completion of a row's command (R123, R100) -/

theorem engineStep_performs {s : State} {p : Pending} {i : Instr} (hp : s.pend = some p)
    (hd : decode p.word = .ok i) : engineStep s = exec i s := by
  simp [engineStep, hp, hd]

theorem engineStep_illegal {s : State} {p : Pending} {r : Illegal} (hp : s.pend = some p)
    (hd : decode p.word = .error r) : engineStep s = .next (failed .illegalCmd s) := by
  simp [engineStep, hp, hd, complete_error]

/-- A row of the opcode map gives the "Encoding" and the ILLEGAL_CMD clause of its command. -/
theorem completesAs_of_row {r : OpRow} {op : BitVec 8} {zero : Word} (hr : r ∈ opTable) (hop : opField r.pattern = op)
    (hp : r.pattern = op ++ 0#24) (hz : r.mask = 0xFF000000 ||| zero) (hlow : zero &&& 0xFF000000 = 0) :
    CompletesAs op zero r.build := by
  subst hop
  intro s p hreset hnext hpend hword
  have hdecode := decode_of_op hr hword hz hp hlow
  rw [step_of_engineNext hreset hnext]
  by_cases hbits : p.word &&& zero = 0
  · rw [if_pos hbits] at hdecode ⊢
    exact engineStep_performs hpend hdecode
  · rw [if_neg hbits] at hdecode ⊢
    exact engineStep_illegal hpend hdecode

/-- Settles O25: NOP's body leaves the state as it is, and NOP is the first row of the opcode map. -/
theorem nopOnlyCompletes : Obligations.NopOnlyCompletes := by
  refine ⟨fun s => complete_ok s s, ?_⟩
  exact completesAs_of_row (r := opTable[0]) (List.getElem_mem _) (by decide) (by decide) (by decide) (by decide)

/-- Settles O27: ERR_CLR's body is `clearError`, and ERR_CLR is the third row of the opcode map. -/
theorem errClrClearsTheError : Obligations.ErrClrClearsTheError := by
  refine ⟨fun s => complete_ok s (clearError s), ?_⟩
  exact completesAs_of_row (r := opTable[2]) (List.getElem_mem _) (by decide) (by decide) (by decide) (by decide)

end Sys2Proof.Machine
end

section
/-! The commands of the Base32 codec that decide nothing (41_base32.md R152–R154, R161, R164): each command's body as
arithmetic on the leftover bits, and the row of the opcode map that gives its encoding. -/

namespace Sys2Proof.Machine

open Sys2Proof.Claims

/-! ## The encoding of a row (30_encoding.md R97, R100) -/

/-- In every row of the opcode map the pattern is OP over zeros and the mask fixes all of OP. -/
theorem opTable_fixes_op : ∀ r ∈ opTable,
    r.pattern = opField r.pattern ++ 0#24 ∧ r.mask = 0xFF000000 ||| r.mask &&& 0x00FFFFFF := by
  decide

/-- Every row of the opcode map gives its command's encoding: the bits below OP that its mask fixes must be 0. -/
theorem completesAs_opTable (n : Fin 16) :
    CompletesAs (opField (opTable.get n).pattern) ((opTable.get n).mask &&& 0x00FFFFFF) (opTable.get n).build := by
  have hrow : opTable.get n ∈ opTable := List.get_mem _ _
  obtain ⟨hpattern, hmask⟩ := opTable_fixes_op _ hrow
  refine completesAs_of_row hrow rfl hpattern hmask ?_
  rw [BitVec.and_assoc]
  exact BitVec.and_zero

/-! ## Clearing the encoder and flushing it (R152, R154) -/

/-- B32E_FIN's character, as arithmetic: the leftover bits shifted up to a full group are still below 2^5. -/
theorem flushChars_eq {s : State} (h : s.eacc.toNat < 2 ^ s.ecnt.val) :
    flushChars s = if s.ecnt.val = 0 then [] else [symbolCode (s.eacc.toNat * 2 ^ (5 - s.ecnt.val))] := by
  have hgroup : s.eacc.toNat * 2 ^ (5 - s.ecnt.val) < 32 :=
    calc s.eacc.toNat * 2 ^ (5 - s.ecnt.val)
      _ < 2 ^ s.ecnt.val * 2 ^ (5 - s.ecnt.val) := Nat.mul_lt_mul_of_pos_right h (Nat.two_pow_pos _)
      _ = 2 ^ 5 := by rw [← Nat.pow_add, Nat.add_sub_cancel' s.ecnt.isLt.le]
  by_cases hzero : s.ecnt.val = 0
  · simp [flushChars, hzero]
  · rw [flushChars, if_pos (Nat.one_le_iff_ne_zero.2 hzero), if_neg hzero, symbol_low, BitVec.toNat_shiftLeft,
      Nat.shiftLeft_eq, Nat.mod_eq_of_lt (hgroup.trans (by decide)), Nat.mod_eq_of_lt hgroup]

/-- Settles O42: B32E_CLR emits nothing, and B32E_FIN what `flushChars_eq` says, as bits are left over or not. -/
theorem encoderClearAndFlush : Obligations.EncoderClearAndFlush := by
  refine ⟨fun s => ⟨complete_ok s _, fun hbound => ?flush⟩, completesAs_opTable 10, completesAs_opTable 12⟩
  case flush =>
    refine (complete_ok s _).trans ?_
    rw [flushChars_eq hbound]
    split <;> rfl

/-! ## Feeding the encoder one byte (R153) -/

/-- B32E_BYTE's loop on the `n` valid bits of `a`: the symbols of the top groups of 5, and how many bits are kept. -/
theorem emitGroups_of_lt {a : BitVec 13} {n : Nat} (ha : a.toNat < 2 ^ n) (h8 : 8 ≤ n) (h12 : n ≤ 12) :
    emitGroups a n n = (symbolCode (a.toNat / 2 ^ (n - 5)) ::
      if n < 10 then [] else [symbolCode (a.toNat / 2 ^ (n - 10) % 32)], n % 5) := by
  have htop : a.toNat / 2 ^ (n - 5) < 32 := by
    rw [Nat.div_lt_iff_lt_mul (Nat.two_pow_pos _)]
    calc a.toNat < 2 ^ (5 + (n - 5)) := by rwa [Nat.add_sub_cancel' (by omega)]
      _ = 32 * 2 ^ (n - 5) := Nat.pow_add 2 5 _
  rw [emitGroups_eq a h8 h12, Nat.mod_eq_of_lt htop]
  split <;> (congr 1; omega)

/-- B32E_BYTE's body with its loop run: `a` is the leftover bits followed by the byte, `n` their number. -/
theorem encodeByte_eq {s : State} (h : s.eacc.toNat < 2 ^ s.ecnt.val) (b : Byte) {a : BitVec 13} {n : Nat}
    (ha : a = (s.eacc <<< 8) ||| b.setWidth 13) (hn : n = s.ecnt.val + 8) :
    encodeByte b s = { s with
      eacc := a &&& lowMask 13 (n % 5), ecnt := Fin.ofNat 5 (n % 5)
      eoutC0 := symbolCode (a.toNat / 2 ^ (n - 5))
      eoutC1 := if n < 10 then 0 else symbolCode (a.toNat / 2 ^ (n - 10) % 32)
      eoutN := if n < 10 then 1 else 2 } := by
  have hcnt := s.ecnt.isLt
  have hlt : a.toNat < 2 ^ n := by
    have hb := b.isLt
    rw [ha, encoder_shiftIn h, hn, Nat.pow_add]
    omega
  have hloop := emitGroups_of_lt hlt (by omega) (by omega)
  subst ha hn
  simp only [encodeByte, hloop]
  split <;> rfl

/-- Settles O43: each field that B32E_BYTE writes, read off `encodeByte_eq`; masking the kept bits is a remainder. -/
theorem encoderTakesOneByte : Obligations.EncoderTakesOneByte := by
  refine ⟨?byte, completesAs_opTable 11⟩
  case byte =>
    intro s b hbound v n
    have hcnt := s.ecnt.isLt
    have hv : ((s.eacc <<< 8) ||| b.setWidth 13).toNat = v := encoder_shiftIn hbound b
    refine ⟨_, complete_ok s (encodeByte b s), ?_⟩
    rw [encodeByte_eq hbound b rfl (n := n) rfl, hv]
    refine ⟨rfl, Nat.mod_eq_of_lt (Nat.mod_lt n (by decide)), ?kept, ?count, rfl, rfl⟩
    case kept => exact (toNat_and_lowMask _ (by omega)).trans (by rw [hv])
    case count =>
      change (if n < 10 then (1 : Fin 3) else 2).val = n / 5
      split
      · change 1 = n / 5; omega
      · change 2 = n / 5; omega

/-! ## Clearing the decoder and finishing (R161, R164) -/

/-- Settles O46: the bodies of B32D_CLR and B32D_FIN clear the decoder, with 0 or DCNT as the count of dropped bits. -/
theorem decoderClearAndFinish : Obligations.DecoderClearAndFinish :=
  ⟨fun s => ⟨complete_ok s _, complete_ok s _⟩, completesAs_opTable 13, completesAs_opTable 15⟩

end Sys2Proof.Machine
end

section
/-! The key buffer and counter commands (42_key_counter.md R200, R201, R203, R204): each command's body, and for the
counter what the body means bit by bit (a lane replaced) and as integer arithmetic (a signed sum). -/

namespace Sys2Proof.Machine

open Sys2Proof.Claims

/-! ## The key buffer (R200, R201) -/

/-- Settles O28: KEY_CLR's body is the cleared buffer, and KEY_CLR is row 3 of the opcode map. -/
theorem keyClrEmptiesTheBuffer : Obligations.KeyClrEmptiesTheBuffer :=
  ⟨fun s => complete_ok s _, completesAs_opTable 3⟩

theorem exec_keyByte_of_lt {s : State} (b : Byte) (hk : s.keylen.val < 64) :
    exec (.keyByte b) s = .next (finished { s with
      key := s.key.set s.keylen.val b hk, keylen := ⟨s.keylen.val + 1, by omega⟩ }) :=
  (congrArg (complete s) (appendKey_ok hk)).trans (complete_ok s _)

theorem exec_keyByte_full {s : State} (b : Byte) (hk : s.keylen.val = 64) :
    exec (.keyByte b) s = .next (failed .keyOverflow s) :=
  (congrArg (complete s) (appendKey_full hk)).trans (complete_error s _)

/-- Settles O29: KEY_BYTE is a `Vector.set` at KEYLEN while there is room, and fails when there is none. -/
theorem keyByteAppendsOrOverflows : Obligations.KeyByteAppendsOrOverflows := by
  refine ⟨fun s b => ⟨fun hk => ?append, exec_keyByte_full b⟩, completesAs_opTable 4⟩
  case append =>
    refine ⟨_, exec_keyByte_of_lt b hk, rfl, rfl, fun i => ?_⟩
    exact (Vector.getElem_set hk i.isLt).trans (if_congr eq_comm rfl rfl)

/-! ## A lane of the counter (R203) -/

/-- A bit of the counter after a lane is replaced: the immediate's inside the lane, the old one outside it. -/
theorem replaceLane_getLsbD (ctr : Counter) (lane : BitVec 2) (imm : BitVec 16) {j : Nat} (hj : j < 64) :
    (replaceLane ctr lane imm).getLsbD j =
      if j / 16 = lane.toNat then imm.getLsbD (j % 16) else ctr.getLsbD j := by
  simp only [replaceLane, laneLow, BitVec.getLsbD_or, BitVec.getLsbD_and, BitVec.getLsbD_not, BitVec.getLsbD_shiftLeft,
    BitVec.getLsbD_setWidth, laneMask_getLsbD]
  by_cases hlane : j / 16 = lane.toNat
  · have hlow : ¬ j < 16 * lane.toNat := by omega
    have hbit : j - 16 * lane.toNat = j % 16 := by omega
    have hin : j % 16 < 16 := Nat.mod_lt j (by decide)
    have hwidth : j % 16 < 64 := hin.trans (by decide)
    simp [hj, hlane, hlow, hbit, hin, hwidth]
  · by_cases hlow : j < 16 * lane.toNat
    · simp [hj, hlane, hlow]
    · have hout : ¬ j - 16 * lane.toNat < 16 := by omega
      simp [hj, hlane, hlow, hout, BitVec.getLsbD_of_ge imm _ (not_lt.1 hout)]

/-- A lane of the counter after a lane is replaced. -/
theorem extractLsb'_replaceLane (ctr : Counter) (lane : BitVec 2) (imm : BitVec 16) (l : Fin 4) :
    (replaceLane ctr lane imm).extractLsb' (16 * l.val) 16 =
      if l.val = lane.toNat then imm else ctr.extractLsb' (16 * l.val) 16 := by
  refine BitVec.eq_of_getLsbD_eq fun i hi => ?_
  have hl := l.isLt
  have hlane : (16 * l.val + i) / 16 = l.val := by omega
  have hbit : (16 * l.val + i) % 16 = i := by omega
  rw [BitVec.getLsbD_extractLsb', replaceLane_getLsbD ctr lane imm (by omega), hlane, hbit]
  split <;> simp [hi]

/-- Settles O31: CTR_LD's body replaces the lane, read off by `extractLsb'_replaceLane`; CTR_LD is row 5. -/
theorem ctrLdReplacesOneLane : Obligations.CtrLdReplacesOneLane :=
  ⟨fun s lane imm => ⟨_, complete_ok s _, rfl, extractLsb'_replaceLane s.ctr lane imm⟩, completesAs_opTable 5⟩

/-! ## Adding to the counter (R204) -/

/-- Adding a sign-extended operand adds its signed value modulo 2^64. -/
theorem toNat_add_sext64 (ctr : Counter) (imm : BitVec 16) :
    ((ctr + sext64 imm).toNat : Int) = ((ctr.toNat : Int) + imm.toInt) % 2 ^ 64 := by
  have hsext : ((sext64 imm).toNat : Int) = imm.toInt % 2 ^ 64 := by
    rw [sext64, BitVec.signExtend, BitVec.toNat_ofInt]
    exact Int.toNat_of_nonneg (Int.emod_nonneg _ (by decide))
  rw [BitVec.toNat_add, Int.natCast_emod, Int.natCast_add, hsext]
  exact Int.add_emod_emod ..

/-- Settles O32: CTR_ADDI adds the sign-extended operand, which `toNat_add_sext64` turns into integer arithmetic. -/
theorem ctrAddiAddsSigned : Obligations.CtrAddiAddsSigned :=
  ⟨fun s imm => ⟨_, complete_ok s _, rfl, toNat_add_sext64 s.ctr imm⟩, completesAs_opTable 6⟩

end Sys2Proof.Machine
end

section
/-! SHA-1 by its rules (43_hmac_sha1.md R232–R238): the message schedule as a recurrence, the rounds of a compression and
the blocks of a message as loops whose values after each pass are named, and the padding as arithmetic. -/

namespace Sys2Proof.Machine

open Sys2Proof.Claims

/-! ## The message schedule (R235) -/

/-- The recurrence of R235 on a schedule held newest word first. -/
def nextScheduleWord (ws : List Word) : Word :=
  rotl 1 (ws.getD 2 0 ^^^ ws.getD 7 0 ^^^ ws.getD 13 0 ^^^ ws.getD 15 0)

theorem extendSchedule_succ (n : Nat) (ws : List Word) :
    extendSchedule (n + 1) ws = extendSchedule n (nextScheduleWord ws :: ws) := rfl

theorem extendSchedule_length (n : Nat) (ws : List Word) : (extendSchedule n ws).length = ws.length + n := by
  induction n generalizing ws with
  | zero => rfl
  | succ n ih => rw [extendSchedule_succ, ih, List.length_cons]; omega

theorem suffix_extendSchedule (n : Nat) (ws : List Word) : ws <:+ extendSchedule n ws := by
  induction n generalizing ws with
  | zero => exact List.suffix_rfl
  | succ n ih => exact (List.suffix_cons _ ws).trans (ih _)

/-- Extending a schedule keeps the words it has: in the order of time they come first. -/
theorem extendSchedule_reverse_getElem? (n : Nat) {ws : List Word} {t : Nat} (ht : t < ws.length) :
    (extendSchedule n ws).reverse[t]? = ws[ws.length - 1 - t]? := by
  have hprefix := List.reverse_prefix.2 (suffix_extendSchedule n ws)
  have hlt : t < ws.reverse.length := by rwa [List.length_reverse]
  rw [List.prefix_iff_getElem?.1 hprefix t hlt, ← List.getElem?_eq_getElem hlt, List.getElem?_reverse ht]

/-- Every word added to a schedule of at least 16 words obeys the recurrence, read in the order of time. -/
theorem extendSchedule_recurrence {n : Nat} {ws : List Word} {t : Nat} (h16 : 16 ≤ ws.length) (hlow : ws.length ≤ t)
    (hhigh : t < ws.length + n) {W : List Word} (hW : W = (extendSchedule n ws).reverse) :
    W[t]? = some (rotl 1 (W.getD (t - 3) 0 ^^^ W.getD (t - 8) 0 ^^^ W.getD (t - 14) 0 ^^^ W.getD (t - 16) 0)) := by
  induction n generalizing ws with
  | zero => omega
  | succ n ih =>
    have hlen : (nextScheduleWord ws :: ws).length = ws.length + 1 := List.length_cons
    rw [extendSchedule_succ] at hW
    rcases hlow.eq_or_lt with rfl | hlater
    · have hnew : W[ws.length]? = some (nextScheduleWord ws) := by
        rw [hW, extendSchedule_reverse_getElem? n (by omega)]; simp
      have hold : ∀ k, 1 ≤ k → k ≤ 16 → W.getD (ws.length - k) 0 = ws.getD (k - 1) 0 := by
        intro k hk hk16
        have hidx : (nextScheduleWord ws :: ws).length - 1 - (ws.length - k) = (k - 1) + 1 := by omega
        rw [List.getD_eq_getElem?_getD, hW, extendSchedule_reverse_getElem? n (by omega), hidx,
          List.getElem?_cons_succ, ← List.getD_eq_getElem?_getD]
      rw [hnew, hold 3 (by decide) (by decide), hold 8 (by decide) (by decide), hold 14 (by decide) (by decide),
        hold 16 (by decide) (by decide)]
      rfl
    · exact ih (by omega) (by omega) (by omega) hW

theorem schedule_length (B : List Byte) : (schedule B).length = 80 := by
  simp [schedule, extendSchedule_length]

/-- The first 16 words of the schedule are the words of the block. -/
theorem schedule_getElem?_of_lt (B : List Byte) {t : Nat} (ht : t < 16) : (schedule B)[t]? = some (be32 B (4 * t)) := by
  have hidx : 16 - 1 - (16 - 1 - t) = t := by omega
  rw [schedule, extendSchedule_reverse_getElem? 64 (by simpa using ht), List.getElem?_reverse (by simp; omega)]
  simp [hidx, ht]

/-- Settles O34: the first 16 words are the block's, the other 64 those that `extendSchedule` adds. -/
theorem messageScheduleRecurrence : Obligations.MessageScheduleRecurrence := by
  intro B _
  refine ⟨schedule_length B, fun t ht => ?_, fun t hlow hhigh => ?_⟩
  · rw [schedule_getElem?_of_lt B ht, be32_eq_append]
    rfl
  · rw [← rotl_eq_rotateLeft (by decide)]
    exact extendSchedule_recurrence (by simp) (by simpa using hlow) (by simpa using hhigh) rfl

/-! ## The rounds of a compression (R233, R234, R236) -/

/-- The ranges of `t` in R233 and R234 are the values of `t / 20`. -/
theorem round_range (t : Nat) :
    (t < 20 ∧ t / 20 = 0) ∨ (¬ t < 20 ∧ t < 40 ∧ t / 20 = 1) ∨ (¬ t < 20 ∧ ¬ t < 40 ∧ t < 60 ∧ t / 20 = 2) ∨
      (¬ t < 20 ∧ ¬ t < 40 ∧ ¬ t < 60 ∧ ∃ n, t / 20 = n + 3) := by
  by_cases h : t < 60
  · omega
  · exact .inr (.inr (.inr ⟨by omega, by omega, h, t / 20 - 3, by omega⟩))

theorem roundFn_eq_roundFunction (t : Nat) (b c d : Word) : roundFn t b c d = roundFunction t b c d := by
  rcases round_range t with ⟨h, hr⟩ | ⟨h, h', hr⟩ | ⟨h, h', h'', hr⟩ | ⟨h, h', h'', n, hr⟩ <;>
    simp [roundFn, roundFunction, *]

theorem roundConst_eq_roundConstant (t : Nat) : roundConst t = roundConstant t := by
  rcases round_range t with ⟨h, hr⟩ | ⟨h, h', hr⟩ | ⟨h, h', h'', hr⟩ | ⟨h, h', h'', n, hr⟩ <;>
    simp [roundConst, roundConstant, *]

theorem sha1Round_eq_sha1Step (t : Nat) (w : Word) (v : HashWords) : sha1Round t w v = sha1Step t w v := by
  simp [sha1Round, sha1Step, roundFn_eq_roundFunction, roundConst_eq_roundConstant, rotl_eq_rotateLeft]

theorem sha1Rounds_append (t : Nat) (ws ws' : List Word) (v : HashWords) :
    sha1Rounds t (ws ++ ws') v = sha1Rounds (t + ws.length) ws' (sha1Rounds t ws v) := by
  induction ws generalizing t v with
  | nil => rfl
  | cons w ws ih =>
    simp only [List.cons_append, sha1Rounds, ih, List.length_cons, Nat.add_assoc, Nat.add_comm 1]

/-- The working variables of R236 after the first `t` rounds. -/
def workingAfter (H : HashWords) (B : List Byte) (t : Nat) : HashWords := sha1Rounds 0 ((schedule B).take t) H

theorem workingAfter_succ (H : HashWords) (B : List Byte) {t : Nat} (ht : t < 80) :
    workingAfter H B (t + 1) = sha1Step t ((schedule B).getD t 0) (workingAfter H B t) := by
  have hlen : t < (schedule B).length := by rwa [schedule_length]
  have hmin : min t (schedule B).length = t := min_eq_left hlen.le
  rw [workingAfter, List.take_succ_eq_append_getElem hlen, sha1Rounds_append, List.length_take, hmin, Nat.zero_add,
    List.getD_eq_getElem _ _ hlen, ← sha1Round_eq_sha1Step]
  rfl

theorem workingAfter_80 (H : HashWords) (B : List Byte) : workingAfter H B 80 = sha1Rounds 0 (schedule B) H := by
  rw [workingAfter, List.take_of_length_le (schedule_length B).le]

/-- Settles O58: the working variables after `t` rounds are `workingAfter`, each round is the loop body of R236. -/
theorem compressionIsSha1 : Obligations.CompressionIsSha1 := by
  refine ⟨rfl, fun H B _ => ⟨workingAfter H B, rfl, fun t => workingAfter_succ H B, ?_⟩⟩
  rw [workingAfter_80]
  rfl

/-! ## The padding (R237) -/

theorem padZeros_spec (l : Nat) : (l + 1 + padZeros l) % 64 = 56 := by
  unfold padZeros; omega

theorem padZeros_least {l z : Nat} (h : (l + 1 + z) % 64 = 56) : padZeros l ≤ z := by
  unfold padZeros; omega

theorem sha1Pad_length (M : List Byte) : (sha1Pad M).length = M.length + 1 + padZeros M.length + 8 := by
  simp [sha1Pad]; omega

/-- Settles O35: z is `padZeros`, and 56 + 8 more bytes fill the last block. -/
theorem paddingIsWholeBlocks : Obligations.PaddingIsWholeBlocks := by
  intro M
  have hz := padZeros_spec M.length
  refine ⟨padZeros M.length, rfl, hz, fun z => padZeros_least, ?_⟩
  rw [sha1Pad_length]
  omega

/-! ## The blocks of a message (R238) -/

@[simp] theorem blocks_length (P : List Byte) : (blocks P).length = P.length / 64 := by simp [blocks]

theorem blocks_getElem (P : List Byte) {j : Nat} (hj : j < (blocks P).length) :
    (blocks P)[j] = (P.drop (64 * j)).take 64 := by
  simp [blocks]

/-- The hash value of R238 after the first `j` blocks of `P`. -/
def hashAfter (P : List Byte) (j : Nat) : HashWords := ((blocks P).take j).foldl sha1Compress hInit

theorem hashAfter_succ (P : List Byte) {j : Nat} (hj : j < P.length / 64) :
    hashAfter P (j + 1) = sha1Compress (hashAfter P j) ((P.drop (64 * j)).take 64) := by
  have hlen : j < (blocks P).length := by rwa [blocks_length]
  rw [hashAfter, List.take_succ_eq_append_getElem hlen, List.foldl_concat, blocks_getElem]
  rfl

/-- SHA-1 answers the bytes of the hash value after the last block. -/
theorem sha1_eq_hashAfter (M : List Byte) : sha1 M = (hashAfter (sha1Pad M) ((sha1Pad M).length / 64)).bytes := by
  rw [hashAfter, List.take_of_length_le (blocks_length _).le]
  rfl

theorem HashWords.bytes_eq_flatMap (h : HashWords) : h.bytes = [h.a, h.b, h.c, h.d, h.e].flatMap wordBytes := rfl

end Sys2Proof.Machine
end

section
/-! HMAC-SHA1 by its formula, and the command HMAC (43_hmac_sha1.md R239, R241). -/

namespace Sys2Proof.Machine

open Sys2Proof.Claims

/-! ## The masked key (R239) -/

/-- The zero-filled key block, byte by byte. -/
theorem hmacKeyBlock_eq_map_range {k : List Byte} (h : k.length ≤ 64) :
    hmacKeyBlock k = (List.range 64).map fun i => k.getD i 0 := by
  refine List.ext_getElem (by simp [hmacKeyBlock_length h]) fun i hi _ => ?_
  by_cases hk : i < k.length
  · simp [hmacKeyBlock, hk]
  · simp [hmacKeyBlock, List.getElem_append_right (not_lt.1 hk), hk]

theorem map_hmacKeyBlock {k : List Byte} (h : k.length ≤ 64) (x : Byte) :
    (hmacKeyBlock k).map (· ^^^ x) = maskedKey k x := by
  rw [hmacKeyBlock_eq_map_range h, List.map_map]
  rfl

theorem hmacSha1_eq_maskedKey {k : List Byte} (h : k.length ≤ 64) (m : List Byte) :
    hmacSha1 k m = sha1 (maskedKey k 0x5C ++ sha1 (maskedKey k 0x36 ++ m)) := by
  rw [hmacSha1, outerKey, innerKey, map_hmacKeyBlock h, map_hmacKeyBlock h]

/-- Settles O59: the hash value after `j` blocks is `hashAfter`, and the two key blocks of HMAC are masked keys. -/
theorem hmacIsBuiltOnSha1 : Obligations.HmacIsBuiltOnSha1 := by
  refine ⟨fun M => ?sha1, fun k m _ hk => hmacSha1_eq_maskedKey hk m⟩
  case sha1 =>
    refine ⟨hashAfter (sha1Pad M), _, rfl, rfl, fun j => hashAfter_succ (sha1Pad M), ?_⟩
    exact (sha1_eq_hashAfter M).trans (HashWords.bytes_eq_flatMap _)

/-! ## The command HMAC (R241) -/

theorem exec_hmac_of_secret {s : State} (hk : s.keylen.val ≠ 0) :
    exec .hmac s = .next (finished { s with digest := keyedDigest s, dv := true }) :=
  (congrArg (complete s) (if_neg hk)).trans (complete_ok s _)

theorem exec_hmac_no_secret {s : State} (hk : s.keylen.val = 0) : exec .hmac s = .next (failed .invalidSecret s) :=
  (congrArg (complete s) (if_pos hk)).trans (complete_error s _)

theorem keyedDigest_toList (s : State) :
    (keyedDigest s).toList = hmacSha1 (s.key.toList.take s.keylen.val) (bigEndian64 s.ctr) :=
  digestOf_toList (hmacSha1_length _ _)

/-- Settles O38: HMAC's body writes `keyedDigest` and DV when there is a secret, and HMAC is row 7 of the opcode map. -/
theorem hmacWritesTheDigest : Obligations.HmacWritesTheDigest :=
  ⟨fun s => ⟨fun hk => ⟨_, exec_hmac_of_secret hk, rfl, keyedDigest_toList s⟩, exec_hmac_no_secret⟩,
    completesAs_opTable 7⟩

end Sys2Proof.Machine
end

section
/-! The truncation functions as arithmetic, and the command DTRUNC (44_truncation.md R270–R273, R275). -/

namespace Sys2Proof.Machine

open Sys2Proof.Claims

/-! ## The offset (R270) -/

theorem truncOffset_toNat (D : Vector Byte 20) : (truncOffset D).toNat = D[19].toNat % 16 := by
  have hmask : (0x0F : Byte).toNat = 2 ^ 4 - 1 := rfl
  rw [truncOffset, BitVec.toNat_setWidth, BitVec.toNat_and, hmask, Nat.and_two_pow_sub_one_eq_mod, Nat.mod_mod]

/-! ## The four bytes at the offset (R271) -/

theorem toNat_append_byte {w : Nat} (a : BitVec w) (b : Byte) : (a ++ b).toNat = a.toNat * 2 ^ 8 + b.toNat := by
  rw [BitVec.toNat_append, ← Nat.shiftLeft_add_eq_or_of_lt b.isLt, Nat.shiftLeft_eq]

/-- Bytes side by side are digits of base 2^8 (20_memory.md R71), whatever the width of the leading one. -/
theorem toNat_append_bytes {w : Nat} (a : BitVec w) (b c d : Byte) :
    (a ++ b ++ c ++ d).toNat = a.toNat * 2 ^ 24 + b.toNat * 2 ^ 16 + c.toNat * 2 ^ 8 + d.toNat := by
  rw [toNat_append_byte, toNat_append_byte, toNat_append_byte]
  omega

theorem digest_getD (D : Vector Byte 20) {i : Nat} (hi : i < 20) : D.toList.getD i 0 = D[i] := by
  rw [List.getD_eq_getElem _ _ (by simpa using hi), Vector.getElem_toList]

/-- `P(D)` is the big-endian word of the four bytes, the leading one without its top bit. -/
theorem truncValue_eq_append (D : Vector Byte 20) {o : Nat} (ho : (truncOffset D).toNat = o) :
    truncValue D = (D.toList.getD o 0 &&& 0x7F) ++ D.toList.getD (o + 1) 0 ++ D.toList.getD (o + 2) 0
      ++ D.toList.getD (o + 3) 0 := by
  have hlt : o < 16 := ho ▸ (truncOffset D).isLt
  subst ho
  rw [digest_getD D (by omega), digest_getD D (by omega), digest_getD D (by omega), digest_getD D (by omega)]
  exact be32_eq_append [D[(truncOffset D).toNat] &&& 0x7F, D[(truncOffset D).toNat + 1],
    D[(truncOffset D).toNat + 2], D[(truncOffset D).toNat + 3]] 0

theorem truncValue_toNat (D : Vector Byte 20) {o : Nat} (ho : (truncOffset D).toNat = o) :
    (truncValue D).toNat = (D.toList.getD o 0).toNat % 2 ^ 7 * 2 ^ 24 + (D.toList.getD (o + 1) 0).toNat * 2 ^ 16
      + (D.toList.getD (o + 2) 0).toNat * 2 ^ 8 + (D.toList.getD (o + 3) 0).toNat := by
  have hmask : (0x7F : Byte).toNat = 2 ^ 7 - 1 := rfl
  rw [truncValue_eq_append D ho, ← Nat.and_two_pow_sub_one_eq_mod, ← hmask, ← BitVec.toNat_and]
  exact toNat_append_bytes _ _ _ _

/-- The sign bit is masked, so the 31 bits of TRUNC hold all of `P(D)`. -/
theorem truncValue_lt (D : Vector Byte 20) : (truncValue D).toNat < 2 ^ 31 := by
  rw [truncValue_toNat D rfl]
  omega

theorem truncValue_setWidth_toNat (D : Vector Byte 20) : ((truncValue D).setWidth 31).toNat = (truncValue D).toNat := by
  rw [BitVec.toNat_setWidth, Nat.mod_eq_of_lt (truncValue_lt D)]

theorem truncValue_setWidth_eq_append (D : Vector Byte 20) {o : Nat} (ho : (truncOffset D).toNat = o) :
    (truncValue D).setWidth 31 = (D.toList.getD o 0).extractLsb' 0 7 ++ D.toList.getD (o + 1) 0
      ++ D.toList.getD (o + 2) 0 ++ D.toList.getD (o + 3) 0 := by
  refine BitVec.eq_of_toNat_eq ?_
  rw [truncValue_setWidth_toNat, truncValue_toNat D ho, ← BitVec.toNat_setWidth,
    BitVec.setWidth_eq_extractLsb' (by decide)]
  exact (toNat_append_bytes _ _ _ _).symm

/-! ## The code (R272, R273) -/

theorem codeNumber_val (D : Vector Byte 20) : (codeNumber D).val = ((truncValue D).setWidth 31).toNat % 1000000 :=
  congrArg (· % 1000000) (truncValue_setWidth_toNat D).symm

theorem codeDigit_toNat (num i : Nat) : (codeDigit num i).toNat = 0x30 + num / 10 ^ (5 - i) % 10 :=
  Nat.mod_eq_of_lt (by omega)

theorem allDigits_codeChars (num : Nat) : allDigits (codeChars num) := by
  intro b hb
  obtain ⟨i, rfl⟩ : ∃ i : Fin 6, codeDigit num i.val = b := by simpa [codeChars] using hb
  rw [codeDigit_toNat]
  omega

/-- Six decimal digits hold every number below 10^6. -/
theorem decimalValue_codeChars {num : Nat} (h : num < 1000000) : decimalValue (codeChars num) = num := by
  have hdigits : decimalValue (codeChars num) =
      10 * (10 * (10 * (10 * (10 * (num / 100000 % 10) + num / 10000 % 10) + num / 1000 % 10) + num / 100 % 10)
        + num / 10 % 10) + num % 10 := by
    simp [decimalValue, codeChars, codeDigit_toNat, Vector.toList_ofFn, List.ofFn_succ]
  rw [hdigits]
  omega

/-! ## The command DTRUNC (R275) -/

theorem exec_dtrunc_of_digest {s : State} (hdv : s.dv = true) :
    exec .dtrunc s = .next (finished (truncateDigest s)) :=
  (congrArg (complete s) (if_pos hdv)).trans (complete_ok s _)

theorem exec_dtrunc_no_digest {s : State} (hdv : s.dv = false) : exec .dtrunc s = .next (failed .noDigest s) :=
  (congrArg (complete s) (if_neg (Bool.not_eq_true _ ▸ hdv))).trans (complete_error s _)

/-- Settles O39: DTRUNC's body writes the truncation functions of the held digest, each read off as arithmetic above,
and DTRUNC is row 8 of the opcode map. -/
theorem dtruncTruncatesTheDigest : Obligations.DtruncTruncatesTheDigest := by
  refine ⟨fun s => ⟨fun hdv => ?truncated, exec_dtrunc_no_digest⟩, completesAs_opTable 8⟩
  case truncated =>
    exact ⟨_, exec_dtrunc_of_digest hdv, rfl, truncOffset_toNat s.digest, truncValue_setWidth_eq_append s.digest rfl,
      codeNumber_val s.digest, allDigits_codeChars _, decimalValue_codeChars (codeNumber s.digest).isLt⟩

end Sys2Proof.Machine
end

section
/-! A command that fails (60_exceptions.md R302). No command's pseudocode reads ERR or ERRCODE: from the state with no
error recorded it raises what it raises from the state itself, and a body that ends without an error leaves ERR clear. -/

namespace Sys2Proof.Machine

open Sys2Proof.Claims

/-! ## Clearing the recorded error before a body or after it -/

theorem appendKey_clearError (byte : Byte) (s : State) :
    appendKey byte (clearError s) = (appendKey byte s).map clearError := by
  by_cases hk : s.keylen.val < 64
  · rw [appendKey_ok hk, appendKey_ok (s := clearError s) hk]; rfl
  · have hfull : s.keylen.val = 64 := by omega
    rw [appendKey_full hfull, appendKey_full (s := clearError s) hfull]; rfl

theorem computeDigest_clearError (s : State) :
    computeDigest (clearError s) = (computeDigest s).map clearError := by
  unfold computeDigest
  rw [apply_ite (Except.map clearError)]
  rfl

theorem setEout_clearError (out : List Byte) (s : State) :
    setEout out (clearError s) = clearError (setEout out s) := by
  rcases out with _ | ⟨c, _ | ⟨d, l⟩⟩ <;> rfl

theorem encodeByte_clearError (byte : Byte) (s : State) :
    encodeByte byte (clearError s) = clearError (encodeByte byte s) := by
  simp only [encodeByte, ← setEout_clearError]
  rfl

theorem routeByte_clearError (k : Bool) (byte : Byte) (s : State) :
    routeByte k byte (clearError s) = (routeByte k byte s).map clearError := by
  cases k
  · rfl
  · exact appendKey_clearError byte s

theorem decodeSymbol_clearError (k : Bool) (x : BitVec 5) (s : State) :
    decodeSymbol k x (clearError s) = (decodeSymbol k x s).map clearError := by
  simp only [decodeSymbol, clearError_dacc, clearError_dcnt, routeByte_clearError]
  split
  · cases routeByte k _ s <;> rfl
  · rfl

theorem decodeChar_clearError (k : Bool) (char : Byte) (strict : Bool) (s : State) :
    decodeChar k char strict (clearError s) = (decodeChar k char strict s).map clearError := by
  simp only [decodeChar, clearError_dpad, decodeSymbol_clearError]
  cases symbolIndex (normChar char) with
  | some x => dsimp only; split_ifs <;> rfl
  | none => dsimp only; split_ifs <;> rfl

/-- Every command's pseudocode commutes with clearing the recorded error. -/
theorem bodyOf_clearError (i : Instr) (s : State) : bodyOf i (clearError s) = (bodyOf i s).map clearError := by
  cases i with
  | keyByte byte => exact appendKey_clearError byte s
  | hmac => exact computeDigest_clearError s
  | dtrunc =>
    dsimp only [bodyOf]
    rw [apply_ite (Except.map clearError)]
    rfl
  | hotp =>
    simp only [bodyOf, computeDigest_clearError]
    cases computeDigest s <;> rfl
  | b32eByte byte => exact congrArg Except.ok (encodeByte_clearError byte s)
  | b32eFin => exact congrArg Except.ok (setEout_clearError (flushChars s) { s with eacc := 0, ecnt := 0 })
  | b32dChar k char => exact decodeChar_clearError k char (latchedStrict s) s
  | _ => rfl

/-! ## A command that raises an error -/

/-- Settles O12, by `bodyOf_clearError`: had the body ended without an error from `s`, it would leave ERR clear from
`clearError s`, and so does SRST; hence the body raises an error from `s`, and its completion is the failed one. -/
theorem failingCommandChangesOnlyStatus : Obligations.FailingCommandChangesOnlyStatus := by
  intro i s t hexec herr
  change exec i (clearError s) = .next t at hexec
  by_cases hi : i = .srst
  · subst hi
    obtain rfl := Host.Outcome.next.inj hexec
    exact absurd herr Bool.false_ne_true
  · rw [exec_eq_complete hi, bodyOf_clearError] at hexec
    rw [exec_eq_complete hi]
    cases hbody : bodyOf i s with
    | error e => exact ⟨e, complete_error s e⟩
    | ok u =>
      rw [hbody] at hexec
      obtain rfl := Host.Outcome.next.inj hexec
      exact absurd herr Bool.false_ne_true

end Sys2Proof.Machine
end

section
/-! Hardware and soft reset (70_reset_and_hazards.md R340, R342): the hold of the reset input over a step, and the
interrupt output after SRST. -/

namespace Sys2Proof.Machine

open Sys2Proof.Claims

/-! ## The reset input -/

/-- The reset input's hold is over the block's elements: what the turn left in the bus record stays. -/
@[simp] theorem holdReset_bus (before after : State) : (holdReset before after).bus = after.bus := by
  unfold holdReset
  split <;> rfl

theorem holdReset_of_asserted {before after : State}
    (h : before.bus.resetPin = true ∨ after.bus.resetPin = true) : holdReset before after = hardReset after :=
  if_pos (Bool.or_eq_true_iff.2 h)

/-- Settles O23, by `step_cases`: the turn leaves some state `v`, and the step ends in `holdReset (started s) v`. Taking
the turn off the schedule and holding the reset both keep the level of the reset input, so it is asserted about the
turn when it is about the step, and the held state is `hardReset v`. -/
theorem resetInputHoldsReset : Obligations.ResetInputHoldsReset := by
  intro s t hstep hpin
  obtain ⟨v, -, rfl⟩ := step_cases hstep
  rw [holdReset_bus] at hpin ⊢
  exact holdReset_of_asserted hpin

/-! ## Soft reset -/

/-- DONE and ERR are 0 after a soft reset, so no source drives IRQ, whatever CTRL enables (10_state.md R42). -/
@[simp] theorem softReset_irq (s : State) : (softReset s).irq = false := by
  simp [softReset, State.reset, State.irq]

/-- Settles O26, by `exec_srst` and `softReset_irq`. -/
theorem srstResetsAllButCtrl : Obligations.SrstResetsAllButCtrl :=
  fun s => ⟨softReset s, exec_srst s, rfl, softReset_irq s⟩

end Sys2Proof.Machine
end

section
/-! The encoding (30_encoding.md): encoder and decoder are inverse to each other, which words are ILLEGAL, and which
command lines assemble. -/

namespace Sys2Proof.Machine

open Sys2Proof.Claims

/-! ## Decoding an encoding (R92–R99) -/

/-- A command whose word selects a row that builds the command back from it decodes to itself. -/
theorem decode_encode_of_row (n : Fin 16) {i : Instr}
    (hselects : encode i &&& (opTable.get n).mask = (opTable.get n).pattern)
    (hbuild : (opTable.get n).build (encode i) = i) : decode (encode i) = .ok i := by
  have hrow := decode_of_selects (List.get_mem opTable n) ((OpRow.selects_iff _ (encode i)).2 hselects)
  rwa [hbuild] at hrow

/-- Row by row of the opcode map: a format holds the row's fixed bits, and its fields are the operands. -/
theorem decode_encode (i : Instr) : decode (encode i) = .ok i := by
  cases i with
  | nop => exact decode_encode_of_row 0 (formatN_masked _) rfl
  | srst => exact decode_encode_of_row 1 (formatN_masked _) rfl
  | errClr => exact decode_encode_of_row 2 (formatN_masked _) rfl
  | keyClr => exact decode_encode_of_row 3 (formatN_masked _) rfl
  | keyByte byte =>
    exact decode_encode_of_row 4 (formatB_masked 0x11 byte) (congrArg Instr.keyByte (byteField_formatB _ byte))
  | ctrLd lane imm =>
    exact decode_encode_of_row 5 (formatH_masked 0x18 lane imm)
      (congrArg₂ Instr.ctrLd (laneField_formatH _ lane imm) (immField_formatH _ lane imm))
  | ctrAddi imm =>
    exact decode_encode_of_row 6 (formatI_masked 0x19 imm) (congrArg Instr.ctrAddi (immField_formatI _ imm))
  | hmac => exact decode_encode_of_row 7 (formatN_masked _) rfl
  | dtrunc => exact decode_encode_of_row 8 (formatN_masked _) rfl
  | hotp => exact decode_encode_of_row 9 (formatN_masked _) rfl
  | b32eClr => exact decode_encode_of_row 10 (formatN_masked _) rfl
  | b32eByte byte =>
    exact decode_encode_of_row 11 (formatB_masked 0x31 byte) (congrArg Instr.b32eByte (byteField_formatB _ byte))
  | b32eFin => exact decode_encode_of_row 12 (formatN_masked _) rfl
  | b32dClr => exact decode_encode_of_row 13 (formatN_masked _) rfl
  | b32dChar k char =>
    exact decode_encode_of_row 14 (formatD_masked 0x39 k char)
      (congrArg₂ Instr.b32dChar (kField_formatD _ k char) (byteField_formatD _ k char))
  | b32dFin => exact decode_encode_of_row 15 (formatN_masked _) rfl

/-- Settles O2, by `decode_encode`: every `Instr` is well formed by its operand types. -/
theorem decodeOfEncodeIsIdentity : Obligations.DecodeOfEncodeIsIdentity := fun i _ => decode_encode i

/-! ## Encoding what was decoded: a word with a row's fixed bits is the row's format of its own fields -/

theorem formatN_of_masked {op : BitVec 8} {w : Word} (h : w &&& 0xFFFFFFFF = op ++ 0#24) : formatN op = w := by
  have hmask : w &&& 0xFFFFFFFF#32 = w := BitVec.and_allOnes
  exact h.symm.trans hmask

theorem formatB_of_masked {op : BitVec 8} {w : Word} (h : w &&& 0xFFFFFF00 = op ++ 0#24) :
    formatB op (byteField w) = w := by
  refine BitVec.eq_of_getLsbD_eq fun i hi => ?_
  have hbit := congrArg (BitVec.getLsbD · i) h
  simp only [formatB, byteField, BitVec.getLsbD_append, BitVec.getLsbD_extractLsb', BitVec.getLsbD_and] at hbit ⊢
  interval_cases i <;> simp_all

theorem formatD_of_masked {op : BitVec 8} {w : Word} (h : w &&& 0xFFFFFE00 = op ++ 0#24) :
    formatD op (kField w) (byteField w) = w := by
  refine BitVec.eq_of_getLsbD_eq fun i hi => ?_
  have hbit := congrArg (BitVec.getLsbD · i) h
  simp only [formatD, kField, byteField, BitVec.getLsbD_append, BitVec.getLsbD_extractLsb', BitVec.getLsbD_and]
    at hbit ⊢
  interval_cases i <;> simp_all

theorem formatH_of_masked {op : BitVec 8} {w : Word} (h : w &&& 0xFFFC0000 = op ++ 0#24) :
    formatH op (laneField w) (immField w) = w := by
  refine BitVec.eq_of_getLsbD_eq fun i hi => ?_
  have hbit := congrArg (BitVec.getLsbD · i) h
  simp only [formatH, laneField, immField, BitVec.getLsbD_append, BitVec.getLsbD_extractLsb', BitVec.getLsbD_and]
    at hbit ⊢
  interval_cases i <;> simp_all

theorem formatI_of_masked {op : BitVec 8} {w : Word} (h : w &&& 0xFFFF0000 = op ++ 0#24) :
    formatI op (immField w) = w := by
  refine BitVec.eq_of_getLsbD_eq fun i hi => ?_
  have hbit := congrArg (BitVec.getLsbD · i) h
  simp only [formatI, immField, BitVec.getLsbD_append, BitVec.getLsbD_extractLsb', BitVec.getLsbD_and] at hbit ⊢
  interval_cases i <;> simp_all

/-- A word that selects a row is the encoding of the command the row builds from it. -/
theorem encode_build_of_selects (n : Fin 16) {w : Word} (h : w &&& (opTable.get n).mask = (opTable.get n).pattern) :
    encode ((opTable.get n).build w) = w := by
  rw [(opTable_fixes_op _ (List.get_mem opTable n)).1] at h
  match n with
  | 4 | 11 => exact formatB_of_masked h
  | 5 => exact formatH_of_masked h
  | 6 => exact formatI_of_masked h
  | 14 => exact formatD_of_masked h
  | 0 | 1 | 2 | 3 | 7 | 8 | 9 | 10 | 12 | 13 | 15 => exact formatN_of_masked h
  | ⟨_ + 16, hn⟩ => exact absurd hn (by omega)

/-- Settles O3: the row that the word selects builds the command, whose encoding is the word again. -/
theorem encodeOfDecodeIsIdentity : Obligations.EncodeOfDecodeIsIdentity := by
  intro w i hdecode
  obtain ⟨r, hr, hselects, rfl⟩ := decode_ok_iff.1 hdecode
  obtain ⟨n, rfl⟩ := List.get_of_mem hr
  exact encode_build_of_selects n ((OpRow.selects_iff _ _).1 hselects)

/-- Settles O4: two rows fix a common bit to different values. -/
theorem opcodeRowsAreDisjoint : Obligations.OpcodeRowsAreDisjoint := by
  refine ⟨rfl, opTable_patterns_differ.imp fun {r r'} hdiffer w hboth => ?_⟩
  exact OpRow.disjoint_of_patterns hdiffer w (hboth.imp (OpRow.selects_iff r w).2 (OpRow.selects_iff r' w).2)

/-! ## The ILLEGAL words (R100) -/

/-- A field of a word is 0 exactly when the word has no bit of the field's mask. -/
theorem and_fieldMask_eq_zero_iff (w : Word) (lo : Nat) {n : Nat} {mask : Word}
    (hmask : ∀ j < 32, mask.getLsbD j = decide (lo ≤ j ∧ j < lo + n)) :
    w &&& mask = 0 ↔ w.extractLsb' lo n = 0 := by
  constructor
  · intro h
    refine BitVec.eq_of_getLsbD_eq fun j hj => ?_
    have hbit := congrArg (BitVec.getLsbD · (lo + j)) h
    by_cases hlt : lo + j < 32
    · simpa [hmask _ hlt, hj] using hbit
    · simp [BitVec.getLsbD_of_ge w _ (not_lt.1 hlt)]
  · intro h
    refine BitVec.eq_of_getLsbD_eq fun j hj => ?_
    rw [BitVec.getLsbD_and, hmask j hj]
    by_cases hin : lo ≤ j ∧ j < lo + n
    · have hbit := congrArg (BitVec.getLsbD · (j - lo)) h
      have hlow : j - lo < n := by omega
      have hadd : lo + (j - lo) = j := by omega
      have hzero : w.getLsbD j = false := by simpa [hlow, hadd] using hbit
      simp [hzero]
    · simp [hin]

/-- How many low bits of a command word its operands take, by the row of the opcode map (R92–R96). -/
def operandWidth (n : Fin 16) : Nat := #v[0, 0, 0, 0, 8, 18, 16, 0, 0, 0, 0, 8, 0, 0, 9, 0][n]

/-- A row's must-be-0 bits are the field between its operands and OP. -/
theorem mustBeZero_getLsbD : ∀ n : Fin 16, ∀ j < 32, ((opTable.get n).mask &&& 0x00FFFFFF).getLsbD j =
    decide (operandWidth n ≤ j ∧ j < operandWidth n + (24 - operandWidth n)) := by
  decide

/-- A word whose OP is assigned is a command or ILLEGAL by a must-be-0 bit of its row. -/
theorem decode_illegal_iff_of_row (n : Fin 16) {w : Word} (hop : opField w = opField (opTable.get n).pattern) :
    decode w ≠ .error .unassignedOp ∧
      (decode w = .error .mustBeZeroBit ↔ w.extractLsb' (operandWidth n) (24 - operandWidth n) ≠ 0) := by
  have hrow : opTable.get n ∈ opTable := List.get_mem _ _
  obtain ⟨hpattern, hmask⟩ := opTable_fixes_op _ hrow
  have hlow : ((opTable.get n).mask &&& 0x00FFFFFF) &&& 0xFF000000 = 0 := by
    rw [BitVec.and_assoc]
    exact BitVec.and_zero
  rw [decode_of_op hrow hop hmask hpattern hlow, ne_eq (w.extractLsb' _ _),
    ← and_fieldMask_eq_zero_iff w _ (mustBeZero_getLsbD n)]
  split
  · next hzero => exact ⟨by simp, by simpa using hzero⟩
  · next hone => exact ⟨by simp, by simpa using hone⟩

/-- A word whose OP is not assigned selects no row: every row fixes all of OP. -/
theorem decode_of_not_opAssigned {w : Word} (h : opAssigned (opField w) = false) : decode w = .error .unassignedOp := by
  refine decode_error_iff.2 ⟨fun r hr => ?_, by simp [illegalCase, h]⟩
  by_contra hselects
  rw [Bool.not_eq_false, OpRow.selects_iff] at hselects
  have hfull : ∀ q ∈ opTable, opField q.mask = BitVec.allOnes 8 := by decide
  have hop : opField r.pattern = opField w := by
    rw [← hselects, opField, BitVec.extractLsb'_and]
    change opField w &&& opField r.mask = opField w
    rw [hfull r hr, BitVec.and_allOnes]
  have hassigned : opAssigned (opField w) = true := by
    simp only [opAssigned, List.any_eq_true, beq_iff_eq]
    exact ⟨r, hr, hop⟩
  exact absurd (h.symm.trans hassigned) Bool.false_ne_true

/-- The 16 assigned opcodes are those of the formats. -/
theorem opAssigned_iff (op : BitVec 8) : opAssigned op = true ↔
    op ∈ [0x00#8, 0x01#8, 0x02#8, 0x10#8, 0x20#8, 0x21#8, 0x22#8, 0x30#8, 0x32#8, 0x38#8, 0x3A#8] ∨ op = 0x11 ∨
      op = 0x31 ∨ op = 0x39 ∨ op = 0x18 ∨ op = 0x19 := by
  revert op
  decide

/-- Settles O5: a word whose OP is assigned is ILLEGAL exactly by `decode_illegal_iff_of_row`, whose field, read off
`operandWidth` row by row, is the one R92–R96 require to be 0; a word whose OP is not assigned is ILLEGAL for that. -/
theorem illegalWordsAreTheReserved : Obligations.IllegalWordsAreTheReserved := by
  intro w op noOperand reservedSet
  by_cases hassigned : opAssigned (opField w) = true
  case pos =>
    obtain ⟨r, hr, hop⟩ : ∃ r ∈ opTable, opField r.pattern = opField w := by
      simpa [opAssigned] using hassigned
    obtain ⟨n, rfl⟩ := List.get_of_mem hr
    obtain ⟨hnot, hzero⟩ := decode_illegal_iff_of_row n hop.symm
    have hop' : op = opField (opTable.get n).pattern := hop.symm
    simp only [hzero, iff_false_left hnot, noOperand, reservedSet, hop']
    fin_cases n <;> simp [opTable, opField, operandWidth]
  case neg =>
    have hdecode := decode_of_not_opAssigned (Bool.not_eq_true _ ▸ hassigned)
    have hnone := mt (opAssigned_iff op).2 hassigned
    simp only [not_or] at hnone
    obtain ⟨h0, h11, h31, h39, h18, h19⟩ := hnone
    refine ⟨iff_of_true hdecode ⟨h0, h11, h31, h39, h18, h19⟩, iff_of_false (by simp [hdecode]) ?_⟩
    rintro (⟨h, -⟩ | ⟨h | h, -⟩ | ⟨h, -⟩ | ⟨h, -⟩ | ⟨h, -⟩)
    exacts [h0 h, h11 h, h31 h, h39 h, h18 h, h19 h]

/-! ## Assembly (R102) -/

/-- The operands of a command are in range by their types. -/
theorem wf_asmLine (i : Instr) : i.asmLine.wf = true := by
  cases i with
  | keyByte byte => exact decide_eq_true (Nat.le_of_lt_succ byte.isLt)
  | b32eByte byte => exact decide_eq_true (Nat.le_of_lt_succ byte.isLt)
  | b32dChar k char => exact decide_eq_true (Nat.le_of_lt_succ char.isLt)
  | ctrLd lane imm =>
    have hlane := Nat.le_of_lt_succ lane.isLt
    have himm := Nat.le_of_lt_succ imm.isLt
    exact Bool.and_eq_true_iff.2 ⟨decide_eq_true hlane, decide_eq_true himm⟩
  | ctrAddi imm =>
    have hlow := imm.le_toInt
    have hhigh := imm.toInt_lt
    exact Bool.and_eq_true_iff.2 ⟨decide_eq_true (by omega), decide_eq_true (by omega)⟩
  | _ => rfl

/-- The command line of a command assembles to it. -/
theorem assemble_asmLine (i : Instr) : i.asmLine.assemble = some i := by
  unfold AsmLine.assemble
  rw [if_pos (wf_asmLine i)]
  cases i <;> simp [Instr.asmLine]

/-- An assembled line is the command line of its command: an operand in range is kept by its field. -/
theorem asmLine_of_assemble {l : AsmLine} {i : Instr} (h : l.assemble = some i) : l.wf = true ∧ i.asmLine = l := by
  by_cases hwf : l.wf = true
  case neg => simp [AsmLine.assemble, hwf] at h
  case pos =>
    refine ⟨hwf, ?_⟩
    unfold AsmLine.assemble at h
    rw [if_pos hwf] at h
    obtain rfl := Option.some.inj h
    cases l with
    | keyByte byte =>
      have : byte ≤ 255 := of_decide_eq_true hwf
      simp [Instr.asmLine]; omega
    | b32eByte byte =>
      have : byte ≤ 255 := of_decide_eq_true hwf
      simp [Instr.asmLine]; omega
    | b32dChar k char =>
      have : char ≤ 255 := of_decide_eq_true hwf
      simp [Instr.asmLine]; omega
    | ctrLd lane imm16 =>
      have : lane ≤ 3 ∧ imm16 ≤ 65535 := by simpa [AsmLine.wf] using hwf
      simp [Instr.asmLine]; omega
    | ctrAddi simm16 =>
      have : -32768 ≤ simm16 ∧ simm16 ≤ 32767 := by simpa [AsmLine.wf] using hwf
      exact congrArg AsmLine.ctrAddi ((BitVec.toInt_ofInt _).trans (Int.bmod_eq_of_le (by omega) (by omega)))
    | _ => rfl

/-- Settles O6: a command's own line assembles to it, and no other line does. -/
theorem assemblyAcceptsExactlyTheRanges : Obligations.AssemblyAcceptsExactlyTheRanges := by
  refine fun l i => ⟨asmLine_of_assemble, ?_⟩
  rintro ⟨-, rfl⟩
  exact assemble_asmLine i

/-- Settles O1: each word by running the decoder on it. -/
theorem sampleWordsDecode : Obligations.SampleWordsDecode := by
  unfold Obligations.SampleWordsDecode
  decide

end Sys2Proof.Machine
end

section
/-! The column "written by" of 10_state.md R22: the parts of the state, which commands write each, and that every other
command leaves it. -/

namespace Sys2Proof.Machine

open Sys2Proof.Claims

/-- The groups of elements that commands write: the key buffer, CTR, the digest, the truncation results, the encoder and
the decoder. -/
inductive Part where
  | key | ctr | digest | result | encoder | decoder

/-- Going from `s` to `t` leaves the part as it is. -/
def Keeps (s t : State) : Part → Prop
  | .key => t.key = s.key ∧ t.keylen = s.keylen
  | .ctr => t.ctr = s.ctr
  | .digest => t.digest = s.digest ∧ t.dv = s.dv
  | .result => t.offset = s.offset ∧ t.trunc = s.trunc ∧ t.codeNum = s.codeNum ∧ t.code = s.code ∧ t.cv = s.cv
  | .encoder => t.eacc = s.eacc ∧ t.ecnt = s.ecnt ∧ t.eoutC0 = s.eoutC0 ∧ t.eoutC1 = s.eoutC1 ∧ t.eoutN = s.eoutN
  | .decoder => t.dacc = s.dacc ∧ t.dcnt = s.dcnt ∧ t.dpad = s.dpad ∧ t.doutByte = s.doutByte ∧ t.doutV = s.doutV ∧
      t.doutSkip = s.doutSkip ∧ t.doutPadc = s.doutPadc ∧ t.doutDrop = s.doutDrop

/-- The table's column "written by". -/
def Instr.writes : Instr → Part → Bool
  | .srst, _ => true
  | .keyClr, .key => true
  | .keyByte _, .key => true
  | .ctrLd _ _, .ctr => true
  | .ctrAddi _, .ctr => true
  | .hmac, .digest => true
  | .hotp, .digest => true
  | .dtrunc, .result => true
  | .hotp, .result => true
  | .b32eClr, .encoder => true
  | .b32eByte _, .encoder => true
  | .b32eFin, .encoder => true
  | .b32dClr, .decoder => true
  | .b32dChar k _, .key => k
  | .b32dChar _ _, .decoder => true
  | .b32dFin, .decoder => true
  | _, _ => false

theorem Keeps.refl (s : State) (p : Part) : Keeps s s p := by
  cases p <;> simp [Keeps]

theorem bodyOf_dtrunc_cases {s u : State} (h : bodyOf .dtrunc s = .ok u) : s.dv = true ∧ u = truncateDigest s := by
  simp only [bodyOf] at h
  split at h
  · next hdv => exact ⟨hdv, (Except.ok.inj h).symm⟩
  · exact absurd h (by simp)

theorem bodyOf_hotp_cases {s u : State} (h : bodyOf .hotp s = .ok u) :
    ∃ v, computeDigest s = .ok v ∧ u = truncateDigest v := by
  simp only [bodyOf] at h
  cases hv : computeDigest s with
  | error e => rw [hv] at h; exact absurd h (by simp [Except.map])
  | ok v => rw [hv] at h; exact ⟨v, rfl, (Except.ok.inj h).symm⟩

/-- A command's pseudocode leaves every part that the table does not name it for. -/
theorem bodyOf_keeps {i : Instr} {s u : State} {p : Part} (h : bodyOf i s = .ok u) (hw : Instr.writes i p = false) :
    Keeps s u p := by
  cases i with
  | srst => cases hw
  | keyByte b =>
    obtain ⟨_, rfl⟩ := appendKey_cases h
    cases p <;> cases hw <;> simp [Keeps]
  | hmac =>
    obtain ⟨_, rfl⟩ := computeDigest_cases h
    cases p <;> cases hw <;> simp [Keeps]
  | dtrunc =>
    obtain ⟨_, rfl⟩ := bodyOf_dtrunc_cases h
    cases p <;> cases hw <;> simp [Keeps]
  | hotp =>
    obtain ⟨v, hv, rfl⟩ := bodyOf_hotp_cases h
    obtain ⟨_, rfl⟩ := computeDigest_cases hv
    cases p <;> cases hw <;> simp [Keeps]
  | b32eByte b =>
    have hu := Except.ok.inj h
    rw [encodeByte_frame] at hu
    subst hu
    cases p <;> cases hw <;> simp [Keeps]
  | b32dChar k c =>
    obtain ⟨hu, hkey⟩ := decodeChar_frame h
    cases p with
    | key => exact hkey hw
    | decoder => cases hw
    | _ => rw [hu]; simp [Keeps]
  | _ =>
    obtain rfl := Except.ok.inj h
    cases p <;> cases hw <;> simp [Keeps]

/-- A completion, failed or not, leaves every part that the table does not name its command for. -/
theorem exec_keeps {i : Instr} {s t : State} {p : Part} (h : exec i s = .next t) (hw : Instr.writes i p = false) :
    Keeps s t p := by
  rcases exec_cases h with ⟨rfl, -⟩ | ⟨-, u, hu, rfl⟩ | ⟨-, e, -, rfl⟩
  · cases hw
  · have hkeep := bodyOf_keeps hu hw
    cases p <;> simpa [Keeps, finished] using hkeep
  · cases p <;> simp [Keeps, failed, finished]

/-- Over a turn a part changes only when the engine performs a command that the table names, or SRST is performed at its
CMD write. -/
theorem turnEffect_keeps {u : Turn} {s t : State} {p : Part} (h : TurnEffect s u t) (hp : ¬ Keeps s t p) :
    (u = .engine ∧ ∃ q i, s.pend = some q ∧ decode q.word = .ok i ∧ Instr.writes i p = true) ∨
      u = .host (writeAt 0x00 0x01000000) := by
  cases h with
  | srst => exact .inr rfl
  | performed q i t hq hd hx =>
    refine .inl ⟨rfl, q, i, hq, hd, ?_⟩
    by_contra hw
    exact hp (exec_keeps hx (Bool.not_eq_true _ ▸ hw))
  | _ => exact absurd (by cases p <;> simp [Keeps, failed, finished]) hp

theorem engineNext_of_nextTurn {s : State} (h : nextTurn s = .engine) : EngineNext s := by
  unfold nextTurn at h
  cases hs : s.bus.turns with
  | nil => exact .inr hs
  | cons u us => rw [hs] at h; exact .inl (by rw [hs]; exact congrArg some h)

theorem hostNext_of_nextTurn {s : State} {a : Access} (h : nextTurn s = .host a) : HostNext s a := by
  unfold nextTurn at h
  cases hs : s.bus.turns with
  | nil => rw [hs] at h; cases h
  | cons u us => rw [hs] at h; exact (congrArg List.head? hs).trans (congrArg some h)

/-- Over a step with the reset input released before and after it, a part changes only when the step performs a command
that the table names for it. -/
theorem step_writes {s t : State} {p : Part} (h : step s = .next t) (hs : s.bus.resetPin = false)
    (ht : t.bus.resetPin = false) (hp : ¬ Keeps s t p) : ∃ i, Performs s i ∧ Instr.writes i p = true := by
  obtain ⟨v, hturn, rfl⟩ := step_cases h
  rw [holdReset_bus] at ht
  have hheld : holdReset (started s) v = v := if_neg (by simp [started, hs, ht])
  rw [hheld] at hp
  have hstarted : ¬ Keeps (started s) v p := by cases p <;> exact hp
  rcases turnEffect_keeps hturn hstarted with ⟨hu, q, i, hq, hd, hw⟩ | hu
  · exact ⟨i, .inl ⟨engineNext_of_nextTurn hu, q, hq, hd⟩, hw⟩
  · exact ⟨.srst, .inr ⟨rfl, hostNext_of_nextTurn hu⟩, rfl⟩

end Sys2Proof.Machine
end

section
/-! What B32D_CHAR does with one character (41_base32.md R162, R163): the branches of its pseudocode, one equation each, and
the one lemma that says what it can leave. -/

namespace Sys2Proof.Machine

open Sys2Proof.Claims

/-! ## A symbol of 5 bits is shifted in -/

/-- The leftover bits followed by the index `x`. -/
def shiftedIn (x : BitVec 5) (s : State) : BitVec 12 := (s.dacc <<< 5) ||| x.setWidth 12

/-- The byte that the index `x` completes: the top 8 of the valid bits. -/
def completedByte (x : BitVec 5) (s : State) : Byte := (shiftedIn x s >>> (s.dcnt.val + 5 - 8)).setWidth 8

/-- `t` with the low `n` of the bits of `a` left over. -/
def keepBits (n : Nat) (a : BitVec 12) (t : State) : State := { t with dacc := a &&& lowMask 12 n, dcnt := Fin.ofNat 8 n }

/-- The two ends of the decoder's step: a byte is completed and routed, or all bits are kept. -/
theorem decodeSymbol_eq (k : Bool) (x : BitVec 5) (s : State) :
    decodeSymbol k x s =
      if 8 ≤ s.dcnt.val + 5 then
        (routeByte k (completedByte x s) s).map fun t =>
          setDout (some (completedByte x s)) false false 0 (keepBits (s.dcnt.val + 5 - 8) (shiftedIn x s) t)
      else .ok (setDout none false false 0 (keepBits (s.dcnt.val + 5) (shiftedIn x s) s)) := by
  unfold decodeSymbol
  dsimp only [completedByte, shiftedIn, keepBits]
  split
  · cases routeByte k _ s <;> rfl
  · rfl

theorem keepBits_dcnt {n : Nat} (hn : n < 8) (a : BitVec 12) (t : State) : (keepBits n a t).dcnt.val = n :=
  Nat.mod_eq_of_lt hn

theorem keepBits_dacc {n : Nat} (hn : n < 8) (a : BitVec 12) (t : State) :
    (keepBits n a t).dacc.toNat = a.toNat % 2 ^ n :=
  toNat_and_lowMask a (hn.trans (by decide))

/-! ## The branches of R162 -/

theorem decodeChar_symbol {k strict : Bool} {c : Byte} {x : BitVec 5} {s : State}
    (hx : symbolIndex (normChar c) = some x) (hpad : (strict && s.dpad) = false) :
    decodeChar k c strict s = decodeSymbol k x s := by
  simp [decodeChar, hx, hpad]

theorem decodeChar_afterPad {k strict : Bool} {c : Byte} {x : BitVec 5} {s : State}
    (hx : symbolIndex (normChar c) = some x) (hpad : (strict && s.dpad) = true) :
    decodeChar k c strict s = .error .invalidEncoding := by
  simp [decodeChar, hx, hpad]

theorem decodeChar_pad {k strict : Bool} {c : Byte} {s : State} (hc : normChar c = 0x3D) :
    decodeChar k c strict s = .ok (setDout none true true 0 { s with dpad := true }) := by
  have hx : symbolIndex 0x3D = none := by decide
  unfold decodeChar
  rw [hc, hx]
  exact if_pos rfl

theorem decodeChar_outside {k strict : Bool} {c : Byte} {s : State} (hx : symbolIndex (normChar c) = none)
    (hc : normChar c ≠ 0x3D) :
    decodeChar k c strict s = if strict then .error .invalidEncoding else .ok (setDout none true false 0 s) := by
  unfold decodeChar
  rw [hx]
  exact if_neg hc

/-- What B32D_CHAR's pseudocode can leave. -/
theorem decodeChar_cases {k strict : Bool} {c : Byte} {s u : State} (h : decodeChar k c strict s = .ok u) :
    (∃ x t, 8 ≤ s.dcnt.val + 5 ∧ routeByte k (completedByte x s) s = .ok t ∧
      u = setDout (some (completedByte x s)) false false 0 (keepBits (s.dcnt.val + 5 - 8) (shiftedIn x s) t)) ∨
    (∃ x, s.dcnt.val + 5 < 8 ∧ u = setDout none false false 0 (keepBits (s.dcnt.val + 5) (shiftedIn x s) s)) ∨
    u = setDout none true true 0 { s with dpad := true } ∨
    u = setDout none true false 0 s := by
  cases hx : symbolIndex (normChar c) with
  | some x =>
    cases hpad : strict && s.dpad with
    | true => rw [decodeChar_afterPad hx hpad] at h; cases h
    | false =>
      rw [decodeChar_symbol hx hpad, decodeSymbol_eq] at h
      split at h
      · next hn =>
        cases ht : routeByte k (completedByte x s) s with
        | error e => rw [ht] at h; cases h
        | ok t => rw [ht] at h; exact .inl ⟨x, t, hn, ht, (Except.ok.inj h).symm⟩
      · next hn => exact .inr (.inl ⟨x, by omega, (Except.ok.inj h).symm⟩)
  | none =>
    by_cases hc : normChar c = 0x3D
    · rw [decodeChar_pad hc] at h
      exact .inr (.inr (.inl (Except.ok.inj h).symm))
    · rw [decodeChar_outside hx hc] at h
      split at h
      · cases h
      · exact .inr (.inr (.inr (Except.ok.inj h).symm))

end Sys2Proof.Machine
end

section
/-! The invariants of the block (10_state.md R23, R26, R29–R34, R39, 60_exceptions.md R305): each is about one part of the
state, so every command that does not write the part keeps it, and one lemma for each that does. -/

namespace Sys2Proof.Machine

open Sys2Proof.Claims

/-! ## An invariant of a part holds where the part is kept -/

theorem keyInv_of_keeps {s t : State} (h : Keeps s t .key) (hs : KeyInv s) : KeyInv t := by
  obtain ⟨hkey, hlen⟩ := h
  unfold KeyInv
  rw [hkey, hlen]
  exact hs

theorem encoderInv_of_keeps {s t : State} (h : Keeps s t .encoder) (hs : EncoderInv s) : EncoderInv t := by
  obtain ⟨hacc, hcnt, h0, h1, hn⟩ := h
  exact ⟨by rw [hacc, hcnt]; exact hs.acc_bound, by rw [hn, h0]; exact hs.slot0, by rw [hn, h1]; exact hs.slot1⟩

theorem decoderInv_of_keeps {s t : State} (h : Keeps s t .decoder) (hs : DecoderInv s) : DecoderInv t := by
  obtain ⟨hacc, hcnt, -, hbyte, hv, hskip, hpadc, hdrop⟩ := h
  exact ⟨by rw [hacc, hcnt]; exact hs.acc_bound, by rw [hv, hbyte]; exact hs.byte_if_v,
    by rw [hpadc, hskip]; exact hs.padc_is_skip, by rw [hv, hskip]; exact hs.v_not_skip,
    by rw [hdrop, hv, hskip]; exact hs.drop_only_fin⟩

theorem resultInv_of_keeps {s t : State} (hd : Keeps s t .digest) (hr : Keeps s t .result) (hs : ResultInv s) :
    ResultInv t := by
  obtain ⟨hdigest, hdv⟩ := hd
  obtain ⟨hoffset, htrunc, hnum, hcode, hcv⟩ := hr
  exact ⟨by rw [hnum, htrunc]; exact hs.num_of_trunc, by rw [hcv, hcode, hnum]; exact hs.code_of_num,
    by rw [hcv, hdv]; exact hs.cv_needs_dv, by rw [hcv, hoffset, htrunc, hcode]; exact hs.no_cv,
    by rw [hdv, hdigest]; exact hs.no_dv⟩

/-! ## The invariants at reset -/

/-- Settles O56: each clause is read off the reset values. -/
theorem invariantsHoldAtReset : Obligations.InvariantsHoldAtReset where
  status := ⟨rfl, rfl, fun _ => rfl, by rintro p ⟨⟩⟩
  key := fun i _ => Vector.getElem_replicate i.isLt
  encoder := ⟨by decide, fun _ => rfl, fun _ => rfl⟩
  decoder := ⟨by decide, fun _ => rfl, by decide, by decide, by decide⟩
  result := ⟨rfl, nofun, nofun, fun _ => ⟨rfl, rfl, rfl⟩, fun _ => rfl⟩

/-- SRST leaves every part at its reset value. -/
theorem softReset_keeps (s : State) (p : Part) : Keeps State.reset (softReset s) p := by
  cases p <;> simp [Keeps, softReset]

/-! ## The key buffer (R23) -/

theorem keyInv_appendKey {b : Byte} {s u : State} (h : appendKey b s = .ok u) (hs : KeyInv s) : KeyInv u := by
  obtain ⟨hk, rfl⟩ := appendKey_cases h
  intro i hi
  have hlt : s.keylen.val < i.val := hi
  exact (Vector.getElem_set_ne hk i.isLt hlt.ne).trans (hs i hlt.le)

/-- A byte routed into the key buffer is appended; the rest of B32D_CHAR does not touch it. -/
theorem keyInv_decodeChar {k strict : Bool} {c : Byte} {s u : State} (h : decodeChar k c strict s = .ok u)
    (hs : KeyInv s) : KeyInv u := by
  rcases decodeChar_cases h with ⟨x, t, -, ht, rfl⟩ | ⟨x, -, rfl⟩ | rfl | rfl
  · refine keyInv_of_keeps (s := t) ⟨rfl, rfl⟩ ?_
    rcases routeByte_cases ht with ⟨-, rfl⟩ | ⟨-, happend⟩
    · exact hs
    · exact keyInv_appendKey happend hs
  all_goals exact keyInv_of_keeps (s := s) ⟨rfl, rfl⟩ hs

theorem keyInv_bodyOf {i : Instr} {s u : State} (h : bodyOf i s = .ok u) (hs : KeyInv s) : KeyInv u := by
  cases i with
  | srst => obtain rfl := Except.ok.inj h; exact keyInv_of_keeps (softReset_keeps s .key) invariantsHoldAtReset.key
  | keyClr => obtain rfl := Except.ok.inj h; exact invariantsHoldAtReset.key
  | keyByte b => exact keyInv_appendKey h hs
  | b32dChar k c => exact keyInv_decodeChar h hs
  | _ => exact keyInv_of_keeps (bodyOf_keeps h rfl) hs

/-! ## The encoder (R31, R32) -/

theorem encoderInv_encodeByte (b : Byte) {s : State} (hs : EncoderInv s) : EncoderInv (encodeByte b s) := by
  have hmod : (s.ecnt.val + 8) % 5 < 5 := Nat.mod_lt _ (by decide)
  rw [encodeByte_eq hs.acc_bound b rfl rfl]
  refine ⟨?bound, ?slot0, ?slot1⟩
  case bound =>
    refine (toNat_and_lowMask _ (hmod.trans (by decide))).trans_lt ?_
    exact (Nat.mod_lt _ (Nat.two_pow_pos _)).trans_eq (congrArg (2 ^ ·) (Nat.mod_eq_of_lt hmod).symm)
  all_goals
    dsimp only
    split <;> simp

/-- The encoder after a flush or a clear: no bits are left, and at most one character was emitted. -/
theorem encoderInv_setEout_empty {out : List Byte} (hout : out.length ≤ 1) (s : State) :
    EncoderInv (setEout out { s with eacc := 0, ecnt := 0 }) := by
  match out, hout with
  | [], _ => exact ⟨by simp, fun _ => rfl, fun _ => rfl⟩
  | [c], _ => exact ⟨by simp, fun h => absurd h Nat.one_ne_zero, fun _ => rfl⟩

theorem flushChars_length (s : State) : (flushChars s).length ≤ 1 := by
  unfold flushChars
  split <;> simp

theorem encoderInv_bodyOf {i : Instr} {s u : State} (h : bodyOf i s = .ok u) (hs : EncoderInv s) : EncoderInv u := by
  cases i with
  | srst =>
    obtain rfl := Except.ok.inj h
    exact encoderInv_of_keeps (softReset_keeps s .encoder) invariantsHoldAtReset.encoder
  | b32eClr => obtain rfl := Except.ok.inj h; exact encoderInv_setEout_empty (out := []) (Nat.zero_le 1) s
  | b32eByte b => obtain rfl := Except.ok.inj h; exact encoderInv_encodeByte b hs
  | b32eFin => obtain rfl := Except.ok.inj h; exact encoderInv_setEout_empty (flushChars_length s) s
  | _ => exact encoderInv_of_keeps (bodyOf_keeps h rfl) hs

/-! ## The decoder (R33, R34) -/

/-- Result fields that fit together keep the decoder's invariant. -/
theorem decoderInv_setDout {byte : Option Byte} {skip padc : Bool} {drop : Fin 8} {s : State}
    (hacc : s.dacc.toNat < 2 ^ s.dcnt.val) (hpadc : padc = true → skip = true) (hbyte : byte.isSome = true → skip = false)
    (hdrop : drop.val ≠ 0 → byte = none ∧ skip = false) : DecoderInv (setDout byte skip padc drop s) where
  acc_bound := hacc
  byte_if_v hv := by
    cases byte with
    | none => rfl
    | some b => cases hv
  padc_is_skip := hpadc
  v_not_skip := hbyte
  drop_only_fin h := ⟨by rw [setDout_doutV, (hdrop h).1]; rfl, (hdrop h).2⟩

theorem keepBits_acc_bound {n : Nat} (hn : n < 8) (a : BitVec 12) (t : State) :
    (keepBits n a t).dacc.toNat < 2 ^ (keepBits n a t).dcnt.val := by
  rw [keepBits_dacc hn, keepBits_dcnt hn]
  exact Nat.mod_lt _ (Nat.two_pow_pos n)

theorem decoderInv_decodeChar {k strict : Bool} {c : Byte} {s u : State} (h : decodeChar k c strict s = .ok u)
    (hs : DecoderInv s) : DecoderInv u := by
  have hcnt := s.dcnt.isLt
  rcases decodeChar_cases h with ⟨x, t, -, -, rfl⟩ | ⟨x, hn, rfl⟩ | rfl | rfl
  · exact decoderInv_setDout (keepBits_acc_bound (by omega) _ _) nofun (fun _ => rfl) (absurd rfl)
  · exact decoderInv_setDout (keepBits_acc_bound hn _ _) nofun nofun (absurd rfl)
  · exact decoderInv_setDout (s := { s with dpad := true }) hs.acc_bound (fun _ => rfl) nofun (absurd rfl)
  · exact decoderInv_setDout hs.acc_bound nofun nofun (absurd rfl)

theorem decoderInv_bodyOf {i : Instr} {s u : State} (h : bodyOf i s = .ok u) (hs : DecoderInv s) : DecoderInv u := by
  cases i with
  | srst =>
    obtain rfl := Except.ok.inj h
    exact decoderInv_of_keeps (softReset_keeps s .decoder) invariantsHoldAtReset.decoder
  | b32dClr => obtain rfl := Except.ok.inj h; exact decoderInv_setDout (Nat.two_pow_pos 0) nofun nofun (absurd rfl)
  | b32dChar k c => exact decoderInv_decodeChar h hs
  | b32dFin => obtain rfl := Except.ok.inj h; exact decoderInv_setDout (Nat.two_pow_pos 0) nofun nofun fun _ => ⟨rfl, rfl⟩
  | _ => exact decoderInv_of_keeps (bodyOf_keeps h rfl) hs

/-! ## The results of the hash unit (R26, R29, R30) -/

theorem resultInv_truncateDigest {s : State} (hdv : s.dv = true) : ResultInv (truncateDigest s) where
  num_of_trunc := codeNumber_val s.digest
  code_of_num _ := ⟨allDigits_codeChars _, decimalValue_codeChars (codeNumber s.digest).isLt⟩
  cv_needs_dv _ := hdv
  no_cv h := by cases h
  no_dv h := absurd (hdv.symm.trans h) (by decide)

theorem resultInv_computeDigest {s u : State} (h : computeDigest s = .ok u) (hs : ResultInv s) : ResultInv u := by
  obtain ⟨-, rfl⟩ := computeDigest_cases h
  exact ⟨hs.num_of_trunc, hs.code_of_num, fun _ => rfl, hs.no_cv, nofun⟩

theorem resultInv_bodyOf {i : Instr} {s u : State} (h : bodyOf i s = .ok u) (hs : ResultInv s) : ResultInv u := by
  cases i with
  | srst =>
    obtain rfl := Except.ok.inj h
    exact resultInv_of_keeps (softReset_keeps s .digest) (softReset_keeps s .result) invariantsHoldAtReset.result
  | hmac => exact resultInv_computeDigest h hs
  | dtrunc => obtain ⟨hdv, rfl⟩ := bodyOf_dtrunc_cases h; exact resultInv_truncateDigest hdv
  | hotp =>
    obtain ⟨v, hv, rfl⟩ := bodyOf_hotp_cases h
    obtain ⟨-, rfl⟩ := computeDigest_cases hv
    exact resultInv_truncateDigest rfl
  | _ => exact resultInv_of_keeps (bodyOf_keeps h rfl) (bodyOf_keeps h rfl) hs

/-! ## STATUS and PEND (R39, R305, R126) -/

/-- A completion leaves the error fields as they were, cleared, or with a code recorded. -/
theorem exec_err_iff_code {i : Instr} {s t : State} (h : exec i s = .next t) (hs : s.err = s.errcode.isSome) :
    t.err = t.errcode.isSome := by
  rcases exec_cases h with ⟨-, rfl⟩ | ⟨hi, u, hu, rfl⟩ | ⟨-, e, -, rfl⟩
  case inl => rfl
  case inr.inl =>
    by_cases hclr : i = .errClr
    · subst hclr
      obtain rfl := Except.ok.inj hu
      rfl
    · obtain ⟨-, -, -, -, hframe⟩ := bodyOf_frame hu
      obtain ⟨-, -, -, herr⟩ := hframe hi
      obtain ⟨herr, hcode⟩ := herr hclr
      change u.err = u.errcode.isSome
      rw [herr, hcode, hs]
  case inr.inr =>
    cases he : s.err with
    | false => simp [failed, he]
    | true => simp [failed, he, ← hs]

/-- With PEND empty and BUSY 0 the error fields are all that STATUS's invariant asks of. -/
theorem statusInv_of_idle {s : State} (hp : s.pend = none) (hb : s.busy = false) (he : s.err = s.errcode.isSome) :
    StatusInv s where
  busy_iff_pending := by rw [hb, hp]; rfl
  err_iff_code := he
  done_not_busy h := absurd (hb.symm.trans h) Bool.false_ne_true
  srst_not_pending p h := by rw [hp] at h; cases h

theorem statusInv_turnEffect {u : Turn} {s t : State} (h : TurnEffect s u t) (hs : StatusInv s) : StatusInv t := by
  obtain ⟨hbusy, herr, hdone, hsrst⟩ := hs
  cases h with
  | srst => exact statusInv_of_idle rfl rfl rfl
  | overrun w hw hb =>
    refine ⟨by simpa using hbusy, ?_, by simpa using hdone, by simpa using hsrst⟩
    cases he : s.err <;> simp [he, ← herr]
  | accept w hw hb he => exact ⟨rfl, herr, fun _ => rfl, by rintro p ⟨⟩; exact hw⟩
  | writeStatus v => exact ⟨by simpa using hbusy, by simpa using herr, by simp +contextual [hdone], by simpa using hsrst⟩
  | performed p i t hp hd hx =>
    obtain ⟨hpend, hidle⟩ := exec_idle hx
    exact statusInv_of_idle hpend hidle (exec_err_iff_code hx herr)
  | illegal p r hp hd =>
    refine statusInv_of_idle rfl rfl ?_
    cases he : s.err <;> simp [failed, he, ← herr]
  | _ => exact ⟨hbusy, herr, hdone, hsrst⟩

/-! ## Every step -/

theorem inv_of_keeps {s t : State} (h : ∀ p, Keeps s t p) (ht : StatusInv t) (hs : Inv s) : Inv t :=
  ⟨ht, keyInv_of_keeps (h .key) hs.key, encoderInv_of_keeps (h .encoder) hs.encoder,
    decoderInv_of_keeps (h .decoder) hs.decoder, resultInv_of_keeps (h .digest) (h .result) hs.result⟩

theorem inv_exec {i : Instr} {s t : State} (h : exec i s = .next t) (ht : StatusInv t) (hs : Inv s) : Inv t := by
  rcases exec_cases h with ⟨-, rfl⟩ | ⟨-, u, hu, rfl⟩ | ⟨-, e, -, rfl⟩
  · exact inv_of_keeps (softReset_keeps s) ht invariantsHoldAtReset
  · have hkeeps : ∀ p, Keeps u (finished u) p := fun p => by cases p <;> simp [Keeps, finished]
    exact ⟨ht, keyInv_of_keeps (hkeeps .key) (keyInv_bodyOf hu hs.key),
      encoderInv_of_keeps (hkeeps .encoder) (encoderInv_bodyOf hu hs.encoder),
      decoderInv_of_keeps (hkeeps .decoder) (decoderInv_bodyOf hu hs.decoder),
      resultInv_of_keeps (hkeeps .digest) (hkeeps .result) (resultInv_bodyOf hu hs.result)⟩
  · exact inv_of_keeps (fun p => by cases p <;> simp [Keeps, failed, finished]) ht hs

theorem inv_turnEffect {u : Turn} {s t : State} (h : TurnEffect s u t) (hs : Inv s) : Inv t := by
  have ht := statusInv_turnEffect h hs.status
  cases h with
  | srst => exact inv_exec (exec_srst s) ht hs
  | performed p i t hp hd hx => exact inv_exec hx ht hs
  | _ => exact inv_of_keeps (fun p => by cases p <;> simp [Keeps, failed, finished]) ht hs

theorem started_keeps (s : State) (p : Part) : Keeps s (started s) p := by
  cases p <;> simp [Keeps, started]

theorem statusInv_started {s : State} (hs : StatusInv s) : StatusInv (started s) :=
  ⟨hs.busy_iff_pending, hs.err_iff_code, hs.done_not_busy, hs.srst_not_pending⟩

theorem statusInv_hardReset (s : State) : StatusInv (hardReset s) := statusInv_of_idle rfl rfl rfl

/-- Settles O57: the turn keeps the invariants (`inv_turnEffect`), and so does the reset input's hold, which leaves the
reset values (O56). -/
theorem stepKeepsInvariants : Obligations.StepKeepsInvariants := by
  intro s t hs h
  obtain ⟨v, hturn, rfl⟩ := step_cases h
  have hv : Inv v := inv_turnEffect hturn (inv_of_keeps (started_keeps s) (statusInv_started hs.status) hs)
  unfold holdReset
  split
  · exact inv_of_keeps (fun p => by cases p <;> simp [Keeps, hardReset]) (statusInv_hardReset v) invariantsHoldAtReset
  · exact hv

end Sys2Proof.Machine
end

section
/-! One step at the engine's turn (40_control.md R123, 60_exceptions.md R303), and the word that `withFetchWord` places
(log 7). -/

namespace Sys2Proof.Machine

open Sys2Proof.Claims

/-- Settles O7: the step is the engine's, which performs the decoded command. -/
theorem stepRunsThePendingCommand : Obligations.StepRunsThePendingCommand := by
  intro s p i hreset hnext hpend hdecode
  exact (step_of_engineNext hreset hnext).trans (engineStep_performs (s := started s) hpend hdecode)

theorem engineStep_idle {s : State} (hp : s.pend = none) : engineStep s = .next s := by
  simp [engineStep, hp]

/-- Settles O11: the engine's turn on an illegal word is the failed completion, with PEND empty it does nothing. -/
theorem engineTurnOnIllegalOrNothing : Obligations.EngineTurnOnIllegalOrNothing := by
  intro s hreset hnext
  rw [step_of_engineNext hreset hnext]
  exact ⟨fun p r hpend hdecode => engineStep_illegal (s := started s) hpend hdecode, engineStep_idle (s := started s)⟩

@[simp] theorem tableWord_toNat (w : Word) : tableWord 32 w.toNat = w := by
  rw [tableWord, Nat.mod_eq_of_lt w.isLt, BitVec.ofNat_toNat, BitVec.setWidth_eq]

/-- No command but SRST has SRST's word. -/
theorem encode_ne_srstWord {i : Instr} (h : i ≠ .srst) : encode i ≠ srstWord := by
  rw [ne_eq, ← decode_srst_iff, decode_encode]
  exact fun heq => h (Except.ok.inj heq)

theorem placeCommand_srst (s : State) : placeCommand srstWord s = { s with
    bus := { s.bus with resetPin := false, turns := cmdWrite srstWord :: s.bus.turns } } := by
  simp [placeCommand]

theorem placeCommand_of_ne {w : Word} (h : w ≠ srstWord) (s : State) : placeCommand w s = accept w { s with
    bus := { s.bus with resetPin := false, turns := .engine :: s.bus.turns } } := if_neg h

/-- Settles O9: SRST's word is placed as the next CMD write, every other as accepted with the engine's turn next. -/
theorem placedWordRunsNext : Obligations.PlacedWordRunsNext := by
  intro s i u
  rw [State.withFetchWord, tableWord_toNat]
  split
  · next hi =>
    have hword : encode i = srstWord := by rw [hi]; decide
    rw [hword, placeCommand_srst, hi]
    refine (step_of_cmdWrite (w := srstWord) ?_ ?_).trans (issue_srst _) <;> rfl
  · next hi =>
    rw [placeCommand_of_ne (encode_ne_srstWord hi)]
    exact (step_of_engineNext rfl (.inl rfl)).trans (engineStep_performs (p := ⟨encode i, s.strict⟩) rfl (decode_encode i))

end Sys2Proof.Machine
end

section
/-! What a read at the port returns (20_memory.md R62, R64, R65, 60_exceptions.md R318): the model's registers, built with
shifts, are the fields of the register map laid side by side. -/

namespace Sys2Proof.Machine

open Sys2Proof.Claims

/-! ## The registers (10_state.md §3, 20_memory.md R64) -/

theorem ctrlWord_eq (s : State) : ctrlWord s = ctrlRegister s := by
  refine BitVec.eq_of_getLsbD_eq fun i hi => ?_
  simp only [ctrlWord, ctrlRegister, flagBit, bit, BitVec.getLsbD_or, BitVec.getLsbD_append, BitVec.getLsbD_shiftLeft,
    BitVec.getLsbD_setWidth]
  interval_cases i <;> simp

theorem errcodeBits_eq_codeBits (e : Option Error) : errcodeBits e = codeBits e := by
  rcases e with _ | _ | _ <;> rfl

theorem statusWord_eq (s : State) : statusWord s = statusRegister s := by
  refine BitVec.eq_of_getLsbD_eq fun i hi => ?_
  simp only [statusWord, statusRegister, flagBit, bit, errcodeBits_eq_codeBits, BitVec.getLsbD_or, BitVec.getLsbD_append,
    BitVec.getLsbD_shiftLeft, BitVec.getLsbD_setWidth]
  interval_cases i <;> simp [State.irq, irqLevel]

/-- A number below 2^w is a field of `w` bits. -/
theorem ofNat_eq_setWidth {n w : Nat} (hn : n < 2 ^ w) (hw : w ≤ 32) :
    BitVec.ofNat 32 n = (BitVec.ofNat w n).setWidth 32 := by
  have hlt : n < 2 ^ 32 := hn.trans_le (Nat.pow_le_pow_right (by decide) hw)
  refine BitVec.eq_of_toNat_eq ?_
  rw [BitVec.toNat_setWidth, BitVec.toNat_ofNat, BitVec.toNat_ofNat, Nat.mod_eq_of_lt hn]

/-- A field with zero bits above it is the field at a larger width. -/
theorem zero_append_eq_setWidth (m : Nat) {w : Nat} (a : BitVec w) : 0#m ++ a = a.setWidth (m + w) := by
  refine BitVec.eq_of_toNat_eq ?_
  rw [BitVec.toNat_setWidth, Nat.mod_eq_of_lt (a.isLt.trans_le (Nat.pow_le_pow_right (by decide) (Nat.le_add_left w m)))]
  simp

/-- Four registers hold four bytes of a buffer each. -/
theorem be32_toList {n : Nat} (v : Vector Byte n) (i : Nat) (h : i + 3 < n) :
    be32 v.toList i = v[i] ++ v[i + 1] ++ v[i + 2] ++ v[i + 3] := by
  rw [be32_eq_append, byteAt_toList, byteAt_toList, byteAt_toList, byteAt_toList]

theorem codeWord_eq (a b : Byte) : (a.setWidth 32 <<< 24) ||| (b.setWidth 32 <<< 16) = a ++ b ++ 0#16 := by
  refine BitVec.eq_of_getLsbD_eq fun i hi => ?_
  simp only [BitVec.getLsbD_or, BitVec.getLsbD_append, BitVec.getLsbD_shiftLeft, BitVec.getLsbD_setWidth]
  interval_cases i <;> simp

theorem eoutWord_eq (a b : Byte) (n : Fin 3) :
    (a.setWidth 32 <<< 24) ||| (b.setWidth 32 <<< 16) ||| BitVec.ofNat 32 n.val = a ++ b ++ 0#14 ++ BitVec.ofNat 2 n.val := by
  rw [ofNat_eq_setWidth (w := 2) (n.isLt.trans (by decide)) (by decide)]
  refine BitVec.eq_of_getLsbD_eq fun i hi => ?_
  simp only [BitVec.getLsbD_or, BitVec.getLsbD_append, BitVec.getLsbD_shiftLeft, BitVec.getLsbD_setWidth]
  interval_cases i <;> simp

theorem encoderWord_eq (acc : BitVec 13) (n : Fin 5) :
    acc.setWidth 32 ||| (BitVec.ofNat 32 n.val <<< 16) = 0#12 ++ BitVec.ofNat 4 n.val ++ 0#3 ++ acc := by
  rw [ofNat_eq_setWidth (w := 4) (n.isLt.trans (by decide)) (by decide)]
  refine BitVec.eq_of_getLsbD_eq fun i hi => ?_
  simp only [BitVec.getLsbD_or, BitVec.getLsbD_append, BitVec.getLsbD_shiftLeft, BitVec.getLsbD_setWidth]
  interval_cases i <;> simp

theorem doutWord_eq (byte : Byte) (v skip padc : Bool) (n : Fin 8) :
    byte.setWidth 32 ||| flagBit v 8 ||| flagBit skip 9 ||| flagBit padc 10 ||| (BitVec.ofNat 32 n.val <<< 16) =
      0#12 ++ BitVec.ofNat 4 n.val ++ 0#5 ++ bit padc ++ bit skip ++ bit v ++ byte := by
  rw [ofNat_eq_setWidth (w := 4) (n.isLt.trans (by decide)) (by decide)]
  refine BitVec.eq_of_getLsbD_eq fun i hi => ?_
  simp only [flagBit, bit, BitVec.getLsbD_or, BitVec.getLsbD_append, BitVec.getLsbD_shiftLeft, BitVec.getLsbD_setWidth]
  interval_cases i <;> simp

theorem decoderWord_eq (acc : BitVec 12) (n : Fin 8) (pad : Bool) :
    acc.setWidth 32 ||| (BitVec.ofNat 32 n.val <<< 16) ||| flagBit pad 20 =
      0#11 ++ bit pad ++ BitVec.ofNat 4 n.val ++ 0#4 ++ acc := by
  rw [ofNat_eq_setWidth (w := 4) (n.isLt.trans (by decide)) (by decide)]
  refine BitVec.eq_of_getLsbD_eq fun i hi => ?_
  simp only [flagBit, bit, BitVec.getLsbD_or, BitVec.getLsbD_append, BitVec.getLsbD_shiftLeft, BitVec.getLsbD_setWidth]
  interval_cases i <;> simp

/-! ## The register map -/

/-- At every offset of the register map the model's register is the map's word. -/
theorem regValue_of_mem_registerMap {s : State} {e : BitVec 8 × Word} (h : e ∈ registerMap s) : regValue s e.1 = e.2 := by
  revert e
  simp only [registerMap, List.forall_mem_cons]
  refine ⟨rfl, ctrlWord_eq s, statusWord_eq s, ?keylen, rfl, rfl, be32_toList _ 0 (by decide), be32_toList _ 4 (by decide),
    be32_toList _ 8 (by decide), be32_toList _ 12 (by decide), be32_toList _ 16 (by decide),
    (zero_append_eq_setWidth 1 s.trunc).symm, (zero_append_eq_setWidth 28 s.offset).symm, ?codeNum,
    be32_toList _ 0 (by decide), codeWord_eq _ _, eoutWord_eq _ _ _, encoderWord_eq _ _, doutWord_eq _ _ _ _ _,
    decoderWord_eq _ _ _, rfl, nofun⟩
  case keylen =>
    exact (ofNat_eq_setWidth (w := 7) (s.keylen.isLt.trans (by decide)) (by decide)).trans
      (zero_append_eq_setWidth 25 _).symm
  case codeNum =>
    exact (ofNat_eq_setWidth (w := 20) (s.codeNum.isLt.trans (by decide)) (by decide)).trans
      (zero_append_eq_setWidth 12 _).symm

/-- An offset outside the register map reads 0 (R65). -/
theorem regValue_of_not_mapped {s : State} {off : BitVec 8} (h : ∀ e ∈ registerMap s, e.1 ≠ off) :
    regValue s off = 0 := by
  simp only [registerMap, List.forall_mem_cons] at h
  unfold regValue
  split <;> simp_all [offset_eq]

theorem regValue_mem_or_not_mapped (s : State) (off : BitVec 8) :
    (off, regValue s off) ∈ registerMap s ∨ ((∀ e ∈ registerMap s, e.1 ≠ off) ∧ regValue s off = 0) := by
  by_cases h : ∃ e ∈ registerMap s, e.1 = off
  · obtain ⟨e, he, rfl⟩ := h
    rw [regValue_of_mem_registerMap he]
    exact .inl he
  · have hnone : ∀ e ∈ registerMap s, e.1 ≠ off := fun e he heq => h ⟨e, he, heq⟩
    exact .inr ⟨hnone, regValue_of_not_mapped hnone⟩

/-! ## The step of a read -/

theorem step_of_read {s : State} {off : BitVec 8} (hr : s.bus.resetPin = false) (ha : off.toNat % 4 = 0)
    (h : HostNext s (readAt off)) : step s = .next (regRead off (started s)) := by
  rw [step_eq_agentTurn hr (by simp [nextTurn_host h]), agentTurn_of_hostNext h, hostAccess_readAt ha]

theorem regRead_of_not_draw {s : State} {off : BitVec 8} (h : readIsDraw s off = false) :
    regRead off s = { s with bus := { s.bus with readLog := (off, regValue s off) :: s.bus.readLog } } := by
  simp [regRead, readValue, h]

theorem regRead_of_draw {s : State} {off : BitVec 8} (h : readIsDraw s off = true) :
    regRead off s = { s with bus := { s.bus with
      readLog := (off, Config.busyRead s.bus.draws) :: s.bus.readLog, draws := s.bus.draws + 1 } } := by
  simp [regRead, readValue, h]

/-- Settles O18: no read is a draw while BUSY = 0, and the value is that of the map. -/
theorem readReturnsTheRegisterMap : Obligations.ReadReturnsTheRegisterMap := by
  intro s off hreset hbusy halign hnext
  have hdraw : readIsDraw (started s) off = false := by simp [readIsDraw, started, hbusy]
  refine ⟨regValue s off, ?_, regValue_mem_or_not_mapped s off⟩
  rw [step_of_read hreset halign hnext, regRead_of_not_draw hdraw]
  rfl

theorem alwaysReadable_iff (off : BitVec 8) : alwaysReadable off = true ↔ off = 0x04 ∨ off = 0x08 ∨ off = 0x50 := by
  simp [alwaysReadable, or_assoc]

theorem readIsDraw_of_always {s : State} {off : BitVec 8} (h : off = 0x04 ∨ off = 0x08 ∨ off = 0x50) :
    readIsDraw s off = false := by
  rw [readIsDraw, (alwaysReadable_iff off).2 h, Bool.not_true, Bool.and_false]

/-- Settles O19: a busy read is a draw but at the three offsets, which the register map lists. -/
theorem busyReadIsADraw : Obligations.BusyReadIsADraw := by
  intro s off hreset hbusy halign hnext
  rw [step_of_read hreset halign hnext]
  refine ⟨fun h4 h8 h50 => ?draw, fun halways => ?promised⟩
  case draw =>
    have halways : alwaysReadable off = false := by
      rw [← Bool.not_eq_true, alwaysReadable_iff]
      simp only [h4, h8, h50, or_self, not_false_eq_true]
    have hdraw : readIsDraw (started s) off = true := by simp [readIsDraw, halways, started, hbusy]
    rw [regRead_of_draw hdraw]
    rfl
  case promised =>
    refine ⟨regValue s off, ?_, ?_⟩
    · refine (regValue_mem_or_not_mapped s off).resolve_right fun hnone => ?_
      rcases halways with rfl | rfl | rfl <;> simp [registerMap] at hnone
    · rw [regRead_of_not_draw (readIsDraw_of_always halways)]
      rfl

theorem statusWord_getLsbD_zero (s : State) : (statusWord s).getLsbD 0 = s.busy := by
  simp [statusWord, flagBit]

/-- Settles O15: STATUS bit 0 is BUSY, which is 1 exactly when PEND is full. -/
theorem statusReadTellsPending : Obligations.StatusReadTellsPending := by
  intro s hs hreset hnext
  have hdraw : readIsDraw (started s) 0x08 = false := readIsDraw_of_always (.inr (.inl rfl))
  refine ⟨_, statusWord s, step_of_read hreset (by decide) hnext, ?_, ?_⟩
  · rw [regRead_of_not_draw hdraw]
    rfl
  · rw [statusWord_getLsbD_zero, hs.busy_iff_pending]

/-- Settles O55: the registers of the reset state are computed, one offset at a time. -/
theorem resetValues : Obligations.ResetValues := by
  unfold Obligations.ResetValues
  decide

end Sys2Proof.Machine
end

section
/-! Writes at the port beside CMD (20_memory.md R63, 10_state.md R36, R38), the window (R60), the interrupt (R42) and the
key bytes, which no read shows (R23). -/

namespace Sys2Proof.Machine

open Sys2Proof.Claims

theorem step_of_write {s : State} {off : BitVec 8} {v : Word} (hr : s.bus.resetPin = false) (ha : off.toNat % 4 = 0)
    (h : HostNext s (writeAt off v)) : step s = regWrite off v (started s) := by
  rw [step_eq_agentTurn hr (by simp [nextTurn_host h]), agentTurn_of_hostNext h, hostAccess_writeAt ha]

theorem writeStatus_eq (v : Word) (s : State) : writeStatus v s = { s with done := s.done && !v.getLsbD 1 } := by
  unfold writeStatus
  cases hv : v.getLsbD 1 <;> simp

/-- Settles O20: the branches of `regWrite` but CMD's. -/
theorem writesBesideCmd : Obligations.WritesBesideCmd := by
  intro s off v hreset halign hcmd hnext
  rw [step_of_write hreset halign hnext, regWrite_eq, if_neg hcmd, writeStatus_eq]
  split_ifs <;> rfl

/-- Settles O21: an offset below 256 is kept by its 8 bits. -/
theorem windowStartsAtBase : Obligations.WindowStartsAtBase := by
  refine ⟨fun off width lanes dir => ?inside, fun addr width lanes dir hout => ?outside⟩
  case inside =>
    have hoff := off.isLt
    have hin : Config.base ≤ Config.base + off.toNat ∧ Config.base + off.toNat < Config.base + Config.windowBytes :=
      ⟨Nat.le_add_right _ _, Nat.add_lt_add_left hoff _⟩
    rw [accessAt, if_pos hin, Nat.add_sub_cancel_left, BitVec.ofNat_toNat, BitVec.setWidth_eq]
  case outside =>
    exact if_neg (by unfold Config.windowBytes; omega)

theorem statusWord_getLsbD_ten (s : State) : (statusWord s).getLsbD 10 = s.irq := by
  simp [statusWord, flagBit]

/-- Settles O24: a CTRL write leaves DONE and ERR, and STATUS shows the level that CTRL then enables. -/
theorem irqFollowsEnabledSources : Obligations.IrqFollowsEnabledSources := by
  intro s v hreset hnext
  exact ⟨writeCtrl v (started s), step_of_write hreset (by decide) hnext, rfl, rfl, rfl, statusWord_getLsbD_ten _⟩

/-! ## The key bytes -/

/-- The bus record after a turn: a read adds what it returns, the reset input's turn its level. -/
def busAfter (u : Turn) (s : State) : Bus :=
  match u with
  | .host ⟨off, _, _, .read⟩ => (regRead off s).bus
  | .host ⟨_, _, _, .write _⟩ => s.bus
  | .engine => s.bus
  | .resetInput level => { s.bus with resetPin := level }

theorem turnEffect_busAfter {u : Turn} {s t : State} (h : TurnEffect s u t) : t.bus = busAfter u s := by
  cases h with
  | overrun w _ _ => exact recordError_bus s _
  | writeStatus v => exact writeStatus_bus s v
  | performed p i t hp hd hx => exact exec_bus hx
  | _ => rfl

theorem busAfter_key (u : Turn) (s : State) (k : Vector Byte 64) : busAfter u { s with key := k } = busAfter u s := by
  cases u with
  | host a =>
    obtain ⟨off, width, lanes, dir⟩ := a
    cases dir <;> rfl
  | _ => rfl

/-- Which answer a turn gives does not depend on the state: a refusal is the access's own. -/
theorem agentTurn_next_or_refused (u : Turn) :
    (∀ s, ∃ t, agentTurn u s = .next t) ∨ ∃ r, ∀ s, agentTurn u s = .refused r := by
  cases u with
  | host a =>
    cases ha : accessRefusal a with
    | some r => exact .inr ⟨r, fun s => by simp [agentTurn, hostAccess, ha]⟩
    | none => exact .inl fun s => (hostAccess_next_iff a s).2 ((accessRefusal_none_iff a).1 ha)
  | engine => exact .inl engineStep_next
  | resetInput level => exact .inl fun s => ⟨_, rfl⟩

/-- Settles O22: the answer's kind is the turn's, and the bus record after it does not read KEY. -/
theorem keyBytesAreUnreadable : Obligations.KeyBytesAreUnreadable := by
  intro s k
  rcases agentTurn_next_or_refused (nextTurn s) with hnext | ⟨r, hrefused⟩
  · obtain ⟨t, ht⟩ := hnext (started s)
    obtain ⟨t', ht'⟩ := hnext (started { s with key := k })
    rw [step_next_of_agentTurn ht, step_next_of_agentTurn (s := { s with key := k }) ht']
    change (holdReset _ t').bus = (holdReset _ t).bus
    rw [holdReset_bus, holdReset_bus, turnEffect_busAfter (agentTurn_cases ht), turnEffect_busAfter (agentTurn_cases ht')]
    exact busAfter_key _ (started s) k
  · rw [step_refused_of_agentTurn (hrefused _), step_refused_of_agentTurn (s := { s with key := k }) (hrefused _)]

end Sys2Proof.Machine
end

section
/-! A command depends only on the parts of the state that it touches (10_state.md R22, 70_reset_and_hazards.md R359): with
every other part replaced it raises the same error, or writes the same values. -/

namespace Sys2Proof.Machine

open Sys2Proof.Claims

/-- The parts whose elements a command's pseudocode reads beside those it writes. -/
def Instr.reads : Instr → Part → Bool
  | .hmac, .key => true
  | .hmac, .ctr => true
  | .hotp, .key => true
  | .hotp, .ctr => true
  | .dtrunc, .digest => true
  | _, _ => false

def Instr.touches (i : Instr) (p : Part) : Bool := Instr.writes i p || Instr.reads i p

/-- The parts that `k` selects as they are in `s`, and everything else as it is in `e`. -/
def graft (k : Part → Bool) (e s : State) : State :=
  { e with
    key := cond (k .key) s.key e.key, keylen := cond (k .key) s.keylen e.keylen
    ctr := cond (k .ctr) s.ctr e.ctr
    digest := cond (k .digest) s.digest e.digest, dv := cond (k .digest) s.dv e.dv
    offset := cond (k .result) s.offset e.offset, trunc := cond (k .result) s.trunc e.trunc
    codeNum := cond (k .result) s.codeNum e.codeNum, code := cond (k .result) s.code e.code
    cv := cond (k .result) s.cv e.cv
    eacc := cond (k .encoder) s.eacc e.eacc, ecnt := cond (k .encoder) s.ecnt e.ecnt
    eoutC0 := cond (k .encoder) s.eoutC0 e.eoutC0, eoutC1 := cond (k .encoder) s.eoutC1 e.eoutC1
    eoutN := cond (k .encoder) s.eoutN e.eoutN
    dacc := cond (k .decoder) s.dacc e.dacc, dcnt := cond (k .decoder) s.dcnt e.dcnt
    dpad := cond (k .decoder) s.dpad e.dpad, doutByte := cond (k .decoder) s.doutByte e.doutByte
    doutV := cond (k .decoder) s.doutV e.doutV, doutSkip := cond (k .decoder) s.doutSkip e.doutSkip
    doutPadc := cond (k .decoder) s.doutPadc e.doutPadc, doutDrop := cond (k .decoder) s.doutDrop e.doutDrop }

theorem graft_keeps {k : Part → Bool} {p : Part} (h : k p = true) (e s : State) : Keeps s (graft k e s) p := by
  cases p <;> simp [Keeps, graft, h]

theorem graft_keeps_rest {k : Part → Bool} {p : Part} (h : k p = false) (e s : State) : Keeps e (graft k e s) p := by
  cases p <;> simp [Keeps, graft, h]

theorem Keeps.symm {s t : State} {p : Part} (h : Keeps s t p) : Keeps t s p := by
  cases p <;> simp_all [Keeps]

theorem Keeps.trans {s t u : State} {p : Part} (h : Keeps s t p) (h' : Keeps t u p) : Keeps s u p := by
  cases p <;> simp_all [Keeps]

/-- The parts, CTRL, STATUS, PEND and the bus record are the whole state. -/
theorem eq_of_keeps {s t : State} (h : ∀ p, Keeps s t p) : t = { s with
    strict := t.strict, ieDone := t.ieDone, ieErr := t.ieErr, busy := t.busy, done := t.done, err := t.err
    errcode := t.errcode, pend := t.pend, bus := t.bus } := by
  have hkey := h .key
  have hctr := h .ctr
  have hdigest := h .digest
  have hresult := h .result
  have hencoder := h .encoder
  have hdecoder := h .decoder
  cases s
  cases t
  simp_all [Keeps]

/-- Grafting parts that are the same changes nothing. -/
theorem graft_of_keeps {k : Part → Bool} {e s : State} (h : ∀ p, k p = true → Keeps s e p) : graft k e s = e := by
  refine eq_of_keeps fun p => ?_
  cases hp : k p with
  | false => exact graft_keeps_rest hp e s
  | true => exact (h p hp).symm.trans (graft_keeps hp e s)

/-! ## The bodies, with everything but what they touch replaced -/

theorem appendKey_graft {k : Part → Bool} (hk : k .key = true) (b : Byte) (e s : State) :
    appendKey b (graft k e s) = (appendKey b s).map (graft k e) := by
  have hlen : (graft k e s).keylen = s.keylen := (graft_keeps hk e s).2
  have hkey : (graft k e s).key = s.key := (graft_keeps hk e s).1
  by_cases hlt : s.keylen.val < 64
  · rw [appendKey_ok hlt, appendKey_ok (s := graft k e s) (by rwa [hlen])]
    simp [Except.map, graft, hk]
  · have hfull : s.keylen.val = 64 := by omega
    rw [appendKey_full hfull, appendKey_full (s := graft k e s) (by rwa [hlen])]
    rfl

theorem computeDigest_graft {k : Part → Bool} (hkey : k .key = true) (hctr : k .ctr = true) (hd : k .digest = true)
    (e s : State) : computeDigest (graft k e s) = (computeDigest s).map (graft k e) := by
  obtain ⟨h1, h2⟩ := graft_keeps hkey e s
  have h3 : (graft k e s).ctr = s.ctr := graft_keeps hctr e s
  have hdigest : keyedDigest (graft k e s) = keyedDigest s := by
    rw [keyedDigest, secret, h1, h2, h3]
    rfl
  unfold computeDigest
  rw [h2, hdigest]
  split
  · rfl
  · simp [Except.map, graft, hkey, hd]

theorem truncateDigest_graft {k : Part → Bool} (hd : k .digest = true) (hr : k .result = true) (e s : State) :
    truncateDigest (graft k e s) = graft k e (truncateDigest s) := by
  simp [truncateDigest, graft, hd, hr]

theorem setEout_graft {k : Part → Bool} (hk : k .encoder = true) (out : List Byte) (e s : State) :
    setEout out (graft k e s) = graft k e (setEout out s) := by
  rcases out with _ | ⟨c, _ | ⟨d, l⟩⟩ <;> simp [setEout, graft, hk]

theorem encodeByte_graft {k : Part → Bool} (hk : k .encoder = true) (b : Byte) (e s : State) :
    encodeByte b (graft k e s) = graft k e (encodeByte b s) := by
  obtain ⟨h1, h2, -⟩ := graft_keeps hk e s
  simp only [encodeByte, h1, h2, ← setEout_graft hk]
  simp [graft, hk]

theorem clearEncoder_graft {k : Part → Bool} (hk : k .encoder = true) (e s : State) :
    { graft k e s with eacc := 0, ecnt := 0 } = graft k e { s with eacc := 0, ecnt := 0 } := by
  simp [graft, hk]

theorem setDout_graft {k : Part → Bool} (hk : k .decoder = true) (byte : Option Byte) (skip padc : Bool) (drop : Fin 8)
    (e s : State) : setDout byte skip padc drop (graft k e s) = graft k e (setDout byte skip padc drop s) := by
  simp [setDout, graft, hk]

theorem routeByte_graft {k : Part → Bool} {toKey : Bool} (hk : toKey = true → k .key = true) (b : Byte) (e s : State) :
    routeByte toKey b (graft k e s) = (routeByte toKey b s).map (graft k e) := by
  cases toKey with
  | false => rfl
  | true => exact appendKey_graft (hk rfl) b e s

theorem decodeSymbol_graft {k : Part → Bool} {toKey : Bool} (hd : k .decoder = true)
    (hk : toKey = true → k .key = true) (x : BitVec 5) (e s : State) :
    decodeSymbol toKey x (graft k e s) = (decodeSymbol toKey x s).map (graft k e) := by
  obtain ⟨hacc, hcnt, -⟩ := graft_keeps hd e s
  have hkeep : ∀ n a (t : State), keepBits n a (graft k e t) = graft k e (keepBits n a t) := fun n a t => by
    simp [keepBits, graft, hd]
  simp only [decodeSymbol_eq, completedByte, shiftedIn, hacc, hcnt, routeByte_graft hk, hkeep, setDout_graft hd]
  split
  · cases routeByte toKey _ s with
    | error err => rfl
    | ok t => simp [Except.map, hkeep, setDout_graft hd]
  · rfl

theorem decodeChar_graft {k : Part → Bool} {toKey : Bool} (hd : k .decoder = true) (hk : toKey = true → k .key = true)
    (c : Byte) (strict : Bool) (e s : State) :
    decodeChar toKey c strict (graft k e s) = (decodeChar toKey c strict s).map (graft k e) := by
  obtain ⟨-, -, hpad, -⟩ := graft_keeps hd e s
  have hset : { graft k e s with dpad := true } = graft k e { s with dpad := true } := by simp [graft, hd]
  simp only [decodeChar, hpad, decodeSymbol_graft hd hk, hset, setDout_graft hd]
  cases symbolIndex (normChar c) with
  | some x => dsimp only; split <;> rfl
  | none => dsimp only; split_ifs <;> rfl

/-- A command's pseudocode from a state where only the parts it touches are those of `s`. -/
theorem bodyOf_graft {i : Instr} (hsrst : i ≠ .srst) (hclr : i ≠ .errClr) {e s : State}
    (hpolicy : latchedStrict e = latchedStrict s) :
    bodyOf i (graft (Instr.touches i) e s) = (bodyOf i s).map (graft (Instr.touches i) e) := by
  cases i with
  | srst => exact absurd rfl hsrst
  | errClr => exact absurd rfl hclr
  | keyByte b => exact appendKey_graft rfl b e s
  | hmac => exact computeDigest_graft rfl rfl rfl e s
  | dtrunc =>
    have hdv : (graft (Instr.touches .dtrunc) e s).dv = s.dv := rfl
    simp only [bodyOf, hdv, truncateDigest_graft (k := Instr.touches .dtrunc) rfl rfl]
    split <;> rfl
  | hotp =>
    simp only [bodyOf, computeDigest_graft (k := Instr.touches .hotp) rfl rfl rfl]
    cases computeDigest s with
    | error err => rfl
    | ok t => exact congrArg Except.ok (truncateDigest_graft rfl rfl e t)
  | b32eByte b => exact congrArg Except.ok (encodeByte_graft rfl b e s)
  | b32eClr =>
    exact congrArg Except.ok ((congrArg _ (clearEncoder_graft rfl e s)).trans (setEout_graft rfl _ e _))
  | b32eFin =>
    have hflush : flushChars (graft (Instr.touches .b32eFin) e s) = flushChars s := rfl
    simp only [bodyOf, hflush]
    exact congrArg Except.ok ((congrArg _ (clearEncoder_graft rfl e s)).trans (setEout_graft rfl _ e _))
  | b32dChar toKey c =>
    have hl : latchedStrict (graft (Instr.touches (.b32dChar toKey c)) e s) = latchedStrict s := hpolicy
    have hkey : toKey = true → Instr.touches (.b32dChar toKey c) .key = true := by rintro rfl; rfl
    simp only [bodyOf, hl]
    exact decodeChar_graft rfl hkey c _ e s
  | _ => rfl

/-! ## The completions -/

/-- What a completion leaves of STATUS beside the error fields, of PEND, CTRL and the bus record. -/
theorem exec_status {i : Instr} (hsrst : i ≠ .srst) {s t : State} (h : exec i s = .next t) :
    t.pend = none ∧ t.busy = false ∧ t.done = true ∧ t.strict = s.strict ∧ t.ieDone = s.ieDone ∧ t.ieErr = s.ieErr ∧
      t.bus = s.bus := by
  obtain ⟨hpend, hbusy⟩ := exec_idle h
  obtain ⟨hbus, hstrict, hdone, herr⟩ := exec_frame h
  refine ⟨hpend, hbusy, ?_, hstrict, hdone, herr, hbus⟩
  rcases exec_cases h with ⟨rfl, -⟩ | ⟨-, u, -, rfl⟩ | ⟨-, e, -, rfl⟩
  · exact absurd rfl hsrst
  · rfl
  · rfl

/-- A body that ends without an error leaves the error fields, ERR_CLR's apart. -/
theorem bodyOf_err {i : Instr} (hsrst : i ≠ .srst) (hclr : i ≠ .errClr) {s u : State} (h : bodyOf i s = .ok u) :
    u.err = s.err ∧ u.errcode = s.errcode := by
  obtain ⟨-, -, -, -, hframe⟩ := bodyOf_frame h
  obtain ⟨-, -, -, herr⟩ := hframe hsrst
  exact herr hclr

section
variable {i : Instr} {s e t t' : State} (hsrst : i ≠ .srst) (hpolicy : latchedStrict e = latchedStrict s)
  (hsame : ∀ p, Instr.touches i p = true → Keeps s e p) (ht : exec i s = .next t) (ht' : exec i e = .next t')
include hsrst hpolicy hsame ht ht'

/-- From two states with the same touched parts a command raises the same error, or none and leaves the same values. -/
theorem exec_local (hclr : i ≠ .errClr) :
    (∃ u, bodyOf i s = .ok u ∧ t = finished u ∧ t' = finished (graft (Instr.touches i) e u)) ∨
      ∃ err, t = failed err s ∧ t' = failed err e := by
  have hbody := bodyOf_graft hsrst hclr hpolicy
  rw [graft_of_keeps hsame] at hbody
  rw [exec_eq_complete hsrst] at ht ht'
  rw [hbody] at ht'
  cases hs : bodyOf i s with
  | ok u =>
    rw [hs] at ht ht'
    exact .inl ⟨u, rfl, (Host.Outcome.next.inj ht).symm, (Host.Outcome.next.inj ht').symm⟩
  | error err =>
    rw [hs, complete_error] at ht
    rw [hs] at ht'
    have hfailed : complete e (.error err) = .next t' := ht'
    rw [complete_error] at hfailed
    exact .inr ⟨err, (Host.Outcome.next.inj ht).symm, (Host.Outcome.next.inj hfailed).symm⟩

theorem exec_keeps_touched {p : Part} (hp : Instr.touches i p = true) : Keeps t t' p := by
  by_cases hclr : i = .errClr
  · subst hclr
    cases p <;> cases hp
  rcases exec_local hsrst hpolicy hsame ht ht' hclr with ⟨u, -, rfl, rfl⟩ | ⟨err, rfl, rfl⟩
  · have hu := graft_keeps hp e u
    cases p <;> exact hu
  · have hs := hsame p hp
    cases p <;> exact hs

theorem exec_err_same (herr : e.err = s.err) (hcode : e.errcode = s.errcode) :
    t'.err = t.err ∧ t'.errcode = t.errcode := by
  by_cases hclr : i = .errClr
  · subst hclr
    obtain rfl := Host.Outcome.next.inj ht
    obtain rfl := Host.Outcome.next.inj ht'
    exact ⟨rfl, rfl⟩
  rcases exec_local hsrst hpolicy hsame ht ht' hclr with ⟨u, hu, rfl, rfl⟩ | ⟨err, rfl, rfl⟩
  · obtain ⟨hue, huc⟩ := bodyOf_err hsrst hclr hu
    exact ⟨herr.trans hue.symm, hcode.trans huc.symm⟩
  · exact ⟨rfl, by simp [failed, herr, hcode]⟩

end

/-- Over the same parts a command leaves the same parts. -/
theorem exec_keeps_all {i : Instr} {s e t t' : State} (hsrst : i ≠ .srst) (hpolicy : latchedStrict e = latchedStrict s)
    (hsame : ∀ p, Keeps s e p) (ht : exec i s = .next t) (ht' : exec i e = .next t') (p : Part) : Keeps t t' p := by
  cases hp : Instr.touches i p with
  | true => exact exec_keeps_touched hsrst hpolicy (fun q _ => hsame q) ht ht' hp
  | false =>
    have hw : Instr.writes i p = false := (Bool.or_eq_false_iff.1 hp).1
    exact ((exec_keeps ht hw).symm.trans (hsame p)).trans (exec_keeps ht' hw)

/-- A completion does not depend on CTRL, the policy apart, nor on the bus record. -/
theorem exec_of_sameParts {i : Instr} (hsrst : i ≠ .srst) {s e t : State} (hpolicy : latchedStrict e = latchedStrict s)
    (hsame : ∀ p, Keeps s e p) (herr : e.err = s.err) (hcode : e.errcode = s.errcode) (h : exec i s = .next t) :
    exec i e = .next { t with strict := e.strict, ieDone := e.ieDone, ieErr := e.ieErr, bus := e.bus } := by
  obtain ⟨t', ht'⟩ := exec_next i e
  have heq := eq_of_keeps (exec_keeps_all hsrst hpolicy hsame h ht')
  obtain ⟨herr', hcode'⟩ := exec_err_same hsrst hpolicy (fun p _ => hsame p) h ht' herr hcode
  obtain ⟨hpend, hbusy, hdone, -⟩ := exec_status hsrst h
  obtain ⟨hpend', hbusy', hdone', hstrict, hieDone, hieErr, hbus⟩ := exec_status hsrst ht'
  rw [ht', heq, herr', hcode', hstrict, hieDone, hieErr, hbus, hpend', hbusy', hdone', ← hpend, ← hbusy, ← hdone]

theorem exec_withBus {i : Instr} (hsrst : i ≠ .srst) {s t : State} (h : exec i s = .next t) (b : Bus) :
    exec i { s with bus := b } = .next { t with bus := b } := by
  obtain ⟨-, hstrict, hieDone, hieErr⟩ := exec_frame h
  have hsame : ∀ p, Keeps s { s with bus := b } p := fun p => by cases p <;> simp [Keeps]
  rw [exec_of_sameParts hsrst (s := s) (e := { s with bus := b }) rfl hsame rfl rfl h, ← hstrict, ← hieDone, ← hieErr]

end Sys2Proof.Machine
end

section
/-! The units of the block are independent (70_reset_and_hazards.md R359, 10_state.md R45): commands that touch different
parts of the state commute, but for which of two errors is the first. -/

namespace Sys2Proof.Machine

open Sys2Proof.Claims

theorem latchedStrict_of_none {s : State} (hp : s.pend = none) : latchedStrict s = s.strict := by
  simp [latchedStrict, hp]

/-- With nothing pending before a command, nothing is pending after it and the policy is the same. -/
theorem latchedStrict_exec {i : Instr} {s t : State} (hp : s.pend = none) (h : exec i s = .next t) :
    latchedStrict t = latchedStrict s := by
  rw [latchedStrict_of_none (exec_idle h).1, latchedStrict_of_none hp, (exec_frame h).2.1]

theorem exec_keeps_untouched {i : Instr} {s t : State} {p : Part} (h : exec i s = .next t)
    (hp : Instr.touches i p = false) : Keeps s t p :=
  exec_keeps h (Bool.or_eq_false_iff.1 hp).1

section
variable {i j : Instr} {s t u t' u' : State} (hi : i ≠ .srst) (hj : j ≠ .srst) (hp : s.pend = none)
  (hdisjoint : ∀ p, Instr.touches i p = true → Instr.touches j p = false)
  (hit : exec i s = .next t) (hju : exec j t = .next u) (hjt : exec j s = .next t') (hiu : exec i t' = .next u')
include hi hp hdisjoint hit hju hjt hiu

/-- A part that the first command touches is the same in either order: the other command neither reads nor writes it. -/
theorem commute_keeps_first {p : Part} (hip : Instr.touches i p = true) : Keeps u' u p := by
  have hsame : ∀ q, Instr.touches i q = true → Keeps s t' q := fun q hq => exec_keeps_untouched hjt (hdisjoint q hq)
  have htouched : Keeps t u' p := exec_keeps_touched hi (latchedStrict_exec hp hjt) hsame hit hiu hip
  exact htouched.symm.trans (exec_keeps_untouched hju (hdisjoint p hip))

include hj

theorem commute_keeps (p : Part) : Keeps u' u p := by
  cases hip : Instr.touches i p with
  | true => exact commute_keeps_first hi hp hdisjoint hit hju hjt hiu hip
  | false =>
    cases hjp : Instr.touches j p with
    | true =>
      have hdisjoint' : ∀ q, Instr.touches j q = true → Instr.touches i q = false := fun q hq => by
        cases hiq : Instr.touches i q with
        | false => rfl
        | true => exact absurd ((hdisjoint q hiq).symm.trans hq) Bool.false_ne_true
      exact (commute_keeps_first hj hp hdisjoint' hjt hiu hit hju hjp).symm
    | false =>
      have h1 := (exec_keeps_untouched hit hip).trans (exec_keeps_untouched hju hjp)
      have h2 := (exec_keeps_untouched hjt hjp).trans (exec_keeps_untouched hiu hip)
      exact h2.symm.trans h1

/-- In either order the two commands leave the same state, the error fields apart. -/
theorem commute_up_to_error : u = { u' with err := u.err, errcode := u.errcode } := by
  have hparts := eq_of_keeps (commute_keeps hi hj hp hdisjoint hit hju hjt hiu)
  obtain ⟨-, -, -, t1, t2, t3, t4⟩ := exec_status hi hit
  obtain ⟨-, -, -, t1', t2', t3', t4'⟩ := exec_status hj hjt
  obtain ⟨hpend, hbusy, hdone, u1, u2, u3, u4⟩ := exec_status hj hju
  obtain ⟨hpend', hbusy', hdone', u1', u2', u3', u4'⟩ := exec_status hi hiu
  refine hparts.trans ?_
  rw [hpend.trans hpend'.symm, hbusy.trans hbusy'.symm, hdone.trans hdone'.symm, u1, u2, u3, u4, t1, t2, t3, t4, ← t1',
    ← t2', ← t3', ← t4', ← u1', ← u2', ← u3', ← u4']

end

/-- The second command records what it would record without the first, when the first leaves the error fields. -/
theorem commute_err_second {i j : Instr} {s t u t' : State} (hj : j ≠ .srst) (hp : s.pend = none)
    (hdisjoint : ∀ p, Instr.touches i p = true → Instr.touches j p = false) (hit : exec i s = .next t)
    (hju : exec j t = .next u) (hjt : exec j s = .next t') (herr : t.err = s.err ∧ t.errcode = s.errcode) :
    u.err = t'.err ∧ u.errcode = t'.errcode := by
  refine exec_err_same hj (latchedStrict_exec hp hit) (fun p hjp => exec_keeps_untouched hit ?_) hjt hju herr.1 herr.2
  cases hip : Instr.touches i p with
  | false => rfl
  | true => exact absurd ((hdisjoint p hip).symm.trans hjp) Bool.false_ne_true

/-- A command that ends without an error leaves the error fields, ERR_CLR apart. -/
theorem exec_err_of_ok {i : Instr} (hsrst : i ≠ .srst) (hclr : i ≠ .errClr) {s t u : State} (hu : bodyOf i s = .ok u)
    (h : exec i s = .next t) : t.err = s.err ∧ t.errcode = s.errcode := by
  rw [exec_eq_complete hsrst, hu, complete_ok] at h
  obtain rfl := Host.Outcome.next.inj h
  have herr := bodyOf_err hsrst hclr hu
  exact herr

theorem encoder_touches {i : Instr} (hi : i = .b32eClr ∨ (∃ b, i = .b32eByte b) ∨ i = .b32eFin) {p : Part}
    (hp : Instr.touches i p = true) : p = .encoder := by
  obtain rfl | ⟨b, rfl⟩ | rfl := hi <;> cases p <;> cases hp <;> rfl

/-- An encoder command raises no error. -/
theorem encoder_err {i : Instr} (hi : i = .b32eClr ∨ (∃ b, i = .b32eByte b) ∨ i = .b32eFin) {s t : State}
    (h : exec i s = .next t) : t.err = s.err ∧ t.errcode = s.errcode := by
  obtain rfl | ⟨b, rfl⟩ | rfl := hi <;> exact exec_err_of_ok (by simp) (by simp) rfl h

theorem decoder_touches {i : Instr} (hi : i = .b32dClr ∨ (∃ c, i = .b32dChar false c) ∨ i = .b32dFin) {p : Part}
    (hp : Instr.touches i p = true) : p = .decoder := by
  obtain rfl | ⟨b, rfl⟩ | rfl := hi <;> cases p <;> cases hp <;> rfl

/-- Settles O54: the commands of another unit touch no part that the codec's commands touch, so they commute up to the
error fields; an encoder command leaves those, and so does any command that raises no error, from either state. -/
theorem codecIsIndependent : Obligations.CodecIsIndependent := by
  refine ⟨?encoder, ?decoder⟩
  case encoder =>
    rintro i j s t u t' u' hp hi ⟨hj, hjclr, hjbyte, hjfin⟩ hit hju hjt hiu
    have hi' : i ≠ .srst := by rintro rfl; simp at hi
    have hjtouch : Instr.touches j .encoder = false := by
      cases j with
      | srst => exact absurd rfl hj
      | b32eClr => exact absurd rfl hjclr
      | b32eByte b => exact absurd rfl (hjbyte b)
      | b32eFin => exact absurd rfl hjfin
      | _ => rfl
    have hdisjoint : ∀ p, Instr.touches i p = true → Instr.touches j p = false := fun p hip => by
      rw [encoder_touches hi hip]; exact hjtouch
    obtain ⟨hue, huc⟩ := commute_err_second hj hp hdisjoint hit hju hjt (encoder_err hi hit)
    obtain ⟨hue', huc'⟩ := encoder_err hi hiu
    refine (commute_up_to_error hi' hj hp hdisjoint hit hju hjt hiu).trans ?_
    rw [hue, huc, ← hue', ← huc']
  case decoder =>
    rintro i j s t u t' u' hp hi ⟨hj, hjclr, hjchar, hjfin⟩ hit hju hjt hiu
    have hi' : i ≠ .srst := by rintro rfl; simp at hi
    have hiclr : i ≠ .errClr := by rintro rfl; simp at hi
    have hjtouch : Instr.touches j .decoder = false := by
      cases j with
      | srst => exact absurd rfl hj
      | b32dClr => exact absurd rfl hjclr
      | b32dChar k c => exact absurd rfl (hjchar k c)
      | b32dFin => exact absurd rfl hjfin
      | _ => rfl
    have hdisjoint : ∀ p, Instr.touches i p = true → Instr.touches j p = false := fun p hip => by
      rw [decoder_touches hi hip]; exact hjtouch
    have hup := commute_up_to_error hi' hj hp hdisjoint hit hju hjt hiu
    refine ⟨hup, fun _ ht _ => hup.trans ?_⟩
    have hsame : ∀ p, Instr.touches i p = true → Keeps s t' p := fun p hip => exec_keeps_untouched hjt (hdisjoint p hip)
    rcases exec_local hi' (latchedStrict_exec hp hjt) hsame hit hiu hiclr with ⟨v, hv, rfl, rfl⟩ | ⟨err, rfl, -⟩
    · have herr := bodyOf_err hi' hiclr hv
      obtain ⟨hue, huc⟩ := commute_err_second hj hp hdisjoint hit hju hjt herr
      rw [hue, huc]
      rfl
    · cases ht

end Sys2Proof.Machine
end

section
/-! Errors over a step (60_exceptions.md R301, 41_base32.md R163), and what each element of the state changes at (10_state.md
R22). -/

namespace Sys2Proof.Machine

open Sys2Proof.Claims

/-! ## The performed command -/

theorem performs_of_engine {s : State} {p : Pending} {i : Instr} (hu : nextTurn s = .engine) (hp : s.pend = some p)
    (hd : decode p.word = .ok i) : Performs s i :=
  .inl ⟨engineNext_of_nextTurn hu, p, hp, hd⟩

theorem performs_srst_of_write {s : State} (hu : nextTurn s = .host (writeAt 0x00 0x01000000)) : Performs s .srst :=
  .inr ⟨rfl, hostNext_of_nextTurn hu⟩

theorem completes_of_engine {s : State} {p : Pending} (hu : nextTurn s = .engine) (hp : s.pend = some p) : Completes s :=
  ⟨engineNext_of_nextTurn hu, by rw [hp]; rfl⟩

/-! ## The error fields (R301) -/

/-- Once an error is recorded a command keeps it with its code, but for the two that clear it. -/
theorem exec_keeps_first_error {i : Instr} {s t : State} (h : exec i s = .next t) (he : s.err = true) :
    (t.err = true ∧ t.errcode = s.errcode) ∨ (t.err = false ∧ (i = .srst ∨ i = .errClr)) := by
  rcases exec_cases h with ⟨rfl, rfl⟩ | ⟨hsrst, u, hu, rfl⟩ | ⟨-, e, -, rfl⟩
  · exact .inr ⟨rfl, .inl rfl⟩
  · by_cases hclr : i = .errClr
    · subst hclr
      obtain rfl := Except.ok.inj hu
      exact .inr ⟨rfl, .inr rfl⟩
    · obtain ⟨herr, hcode⟩ := bodyOf_err hsrst hclr hu
      exact .inl ⟨herr.trans he, hcode⟩
  · exact .inl ⟨rfl, if_pos he⟩

/-- The state after a step is the turn's, or the reset input is asserted about the step. -/
theorem step_turn_or_reset {s t : State} (h : step s = .next t) :
    TurnEffect (started s) (nextTurn s) t ∨ ((s.bus.resetPin = true ∨ t.bus.resetPin = true) ∧ t = hardReset t) := by
  obtain ⟨v, hturn, rfl⟩ := step_cases h
  by_cases hpin : (started s).bus.resetPin = true ∨ v.bus.resetPin = true
  · refine .inr ⟨by rwa [holdReset_bus], ?_⟩
    rw [holdReset_of_asserted hpin]
    rfl
  · rw [show holdReset (started s) v = v from if_neg (by simpa using hpin)]
    exact .inl hturn

/-- Settles O13: no turn replaces a recorded code, and only ERR_CLR, SRST and the reset input clear ERR. -/
theorem firstErrorIsKept : Obligations.FirstErrorIsKept := by
  intro s t h he
  rcases step_turn_or_reset h with hturn | ⟨hpin, hreset⟩
  case inr =>
    rw [hreset]
    exact ⟨nofun, fun _ => .inr (.inr hpin)⟩
  case inl =>
    have hstarted : (started s).err = true := he
    have hkept : ∀ {v : State}, v.err = true → v.errcode = s.errcode → (v.err = true → v.errcode = s.errcode) ∧
        (v.err = false → Performs s .errClr ∨ Performs s .srst ∨ s.bus.resetPin = true ∨ v.bus.resetPin = true) :=
      fun herr hcode => ⟨fun _ => hcode, fun hfalse => absurd (herr.symm.trans hfalse) (by decide)⟩
    generalize hu : nextTurn s = u at hturn
    cases hturn with
    | srst => exact ⟨nofun, fun _ => .inr (.inl (performs_srst_of_write hu))⟩
    | performed p i t hp hd hx =>
      rcases exec_keeps_first_error hx hstarted with ⟨herr, hcode⟩ | ⟨herr, rfl | rfl⟩
      · exact hkept herr hcode
      · exact ⟨fun htrue => absurd (herr.symm.trans htrue) (by decide), fun _ => .inr (.inl (performs_of_engine hu hp hd))⟩
      · exact ⟨fun htrue => absurd (herr.symm.trans htrue) (by decide), fun _ => .inl (performs_of_engine hu hp hd)⟩
    | overrun w hw hb => exact hkept (recordError_err _ _) (by rw [recordError_errcode, if_pos hstarted]; rfl)
    | illegal p r hp hd => exact hkept rfl (if_pos hstarted)
    | writeStatus v => exact hkept (by rw [writeStatus_err, hstarted]) (by rw [writeStatus_errcode]; rfl)
    | _ => exact hkept he rfl

/-! ## The permissive policy (41_base32.md R163) -/

theorem appendKey_error {b : Byte} {s : State} {e : Error} (h : appendKey b s = .error e) : e = .keyOverflow := by
  unfold appendKey at h
  split at h
  · cases h
  · exact (Except.error.inj h).symm

/-- Under the permissive policy the decoder's only error is a full key buffer. -/
theorem decodeChar_permissive_error {k : Bool} {c : Byte} {s : State} {e : Error}
    (h : decodeChar k c false s = .error e) : e = .keyOverflow := by
  cases hx : symbolIndex (normChar c) with
  | none =>
    by_cases hc : normChar c = 0x3D
    · rw [decodeChar_pad hc] at h; cases h
    · rw [decodeChar_outside hx hc] at h; cases h
  | some x =>
    rw [decodeChar_symbol hx rfl, decodeSymbol_eq] at h
    split at h
    · cases hroute : routeByte k (completedByte x s) s with
      | ok t => rw [hroute] at h; cases h
      | error e' =>
        rw [hroute] at h
        obtain rfl := Except.error.inj h
        cases k with
        | false => cases hroute
        | true => exact appendKey_error hroute
    · cases h

theorem computeDigest_error {s : State} {e : Error} (h : computeDigest s = .error e) : e = .invalidSecret := by
  unfold computeDigest at h
  split at h <;> cases h
  rfl

theorem bodyOf_permissive_error {i : Instr} {s : State} {e : Error} (hpolicy : latchedStrict s = false)
    (h : bodyOf i s = .error e) : e ≠ .invalidEncoding := by
  cases i with
  | keyByte b => rw [appendKey_error h]; decide
  | hmac => rw [computeDigest_error h]; decide
  | dtrunc =>
    simp only [bodyOf] at h
    split at h <;> cases h
    decide
  | hotp =>
    cases hv : computeDigest s with
    | ok v => simp [bodyOf, hv, Except.map] at h
    | error e' =>
      obtain rfl : e' = e := by simpa [bodyOf, hv, Except.map] using h
      rw [computeDigest_error hv]
      decide
  | b32dChar k c =>
    simp only [bodyOf, hpolicy] at h
    rw [decodeChar_permissive_error h]
    decide
  | _ => cases h

/-- Settles O50: a command leaves ERRCODE, clears it, or records its own error, which is not INVALID_ENCODING. -/
theorem permissiveNeverRejects : Obligations.PermissiveNeverRejects := by
  intro i s t hpolicy h hcode
  rcases exec_cases h with ⟨-, rfl⟩ | ⟨hsrst, u, hu, rfl⟩ | ⟨-, e, he, rfl⟩
  · cases hcode
  · by_cases hclr : i = .errClr
    · subst hclr
      obtain rfl := Except.ok.inj hu
      cases hcode
    · exact (bodyOf_err hsrst hclr hu).2.symm.trans hcode
  · change (if s.err then s.errcode else some e) = some .invalidEncoding at hcode
    split at hcode
    · exact hcode
    · exact absurd (Option.some.inj hcode) (bodyOf_permissive_error hpolicy he)

/-! ## The parts of the state, by the commands that write them -/

theorem writes_key {i : Instr} (h : Instr.writes i .key = true) :
    i = .keyClr ∨ (∃ b, i = .keyByte b) ∨ (∃ c, i = .b32dChar true c) ∨ i = .srst := by
  cases i <;> cases h <;> simp

theorem writes_ctr {i : Instr} (h : Instr.writes i .ctr = true) :
    (∃ l imm, i = .ctrLd l imm) ∨ (∃ imm, i = .ctrAddi imm) ∨ i = .srst := by
  cases i <;> cases h <;> simp

theorem writes_digest {i : Instr} (h : Instr.writes i .digest = true) : i = .hmac ∨ i = .hotp ∨ i = .srst := by
  cases i <;> cases h <;> simp

theorem writes_result {i : Instr} (h : Instr.writes i .result = true) : i = .dtrunc ∨ i = .hotp ∨ i = .srst := by
  cases i <;> cases h <;> simp

theorem writes_encoder {i : Instr} (h : Instr.writes i .encoder = true) :
    i = .b32eClr ∨ (∃ b, i = .b32eByte b) ∨ i = .b32eFin ∨ i = .srst := by
  cases i <;> cases h <;> simp

theorem writes_decoder {i : Instr} (h : Instr.writes i .decoder = true) :
    i = .b32dClr ∨ (∃ k c, i = .b32dChar k c) ∨ i = .b32dFin ∨ i = .srst := by
  cases i <;> cases h <;> simp

/-! ## CTRL, PEND and STATUS, by the turns that write them -/

section
variable {s t : State} (h : TurnEffect (started s) (nextTurn s) t)
include h

theorem turn_ctrl :
    (t.strict = s.strict ∧ t.ieDone = s.ieDone ∧ t.ieErr = s.ieErr) ∨ ∃ v, HostNext s (writeAt 0x04 v) := by
  generalize hu : nextTurn s = u at h
  cases h with
  | writeCtrl v => exact .inr ⟨v, hostNext_of_nextTurn hu⟩
  | performed p i t hp hd hx => exact .inl (exec_frame hx).2
  | overrun w hw hb => exact .inl (by simp [started])
  | writeStatus v => exact .inl (by simp [started])
  | _ => exact .inl ⟨rfl, rfl, rfl⟩

theorem turn_pend : (t.busy = s.busy ∧ t.pend = s.pend) ∨ (∃ w, Accepts s w) ∨ Completes s ∨ Performs s .srst := by
  generalize hu : nextTurn s = u at h
  cases h with
  | srst => exact .inr (.inr (.inr (performs_srst_of_write hu)))
  | accept w hw hb he =>
    exact .inr (.inl ⟨w, hostNext_of_nextTurn hu, hw, hb, he.imp_right (acceptedInError_iff w).1⟩)
  | performed p i t hp hd hx => exact .inr (.inr (.inl (completes_of_engine hu hp)))
  | illegal p r hp hd => exact .inr (.inr (.inl (completes_of_engine hu hp)))
  | overrun w hw hb => exact .inl (by simp [started])
  | writeStatus v => exact .inl (by simp [started])
  | _ => exact .inl ⟨rfl, rfl⟩

theorem turn_done : t.done = s.done ∨ (∃ w, Accepts s w) ∨ Completes s ∨
    (∃ v, HostNext s (writeAt 0x08 v) ∧ v.getLsbD 1 = true) ∨ Performs s .srst := by
  generalize hu : nextTurn s = u at h
  cases h with
  | srst => exact .inr (.inr (.inr (.inr (performs_srst_of_write hu))))
  | accept w hw hb he =>
    exact .inr (.inl ⟨w, hostNext_of_nextTurn hu, hw, hb, he.imp_right (acceptedInError_iff w).1⟩)
  | performed p i t hp hd hx => exact .inr (.inr (.inl (completes_of_engine hu hp)))
  | illegal p r hp hd => exact .inr (.inr (.inl (completes_of_engine hu hp)))
  | writeStatus v =>
    cases hv : v.getLsbD 1 with
    | true => exact .inr (.inr (.inr (.inl ⟨v, hostNext_of_nextTurn hu, hv⟩)))
    | false => exact .inl (by rw [writeStatus_done, hv, Bool.not_false, Bool.and_true]; rfl)
  | overrun w hw hb => exact .inl (by simp [started])
  | _ => exact .inl rfl

theorem turn_err : (t.err = s.err ∧ t.errcode = s.errcode) ∨ (Completes s ∧ s.err = false ∧ t.err = true) ∨
    (∃ w, Overruns s w) ∨ Performs s .errClr ∨ Performs s .srst := by
  generalize hu : nextTurn s = u at h
  cases h with
  | srst => exact .inr (.inr (.inr (.inr (performs_srst_of_write hu))))
  | overrun w hw hb =>
    cases he : s.err with
    | true => exact .inl (by simp [started, he])
    | false => exact .inr (.inr (.inl ⟨w, hostNext_of_nextTurn hu, hw, hb, he⟩))
  | performed p i t hp hd hx =>
    rcases exec_cases hx with ⟨rfl, -⟩ | ⟨hsrst, v, hv, rfl⟩ | ⟨-, e, -, rfl⟩
    · exact .inr (.inr (.inr (.inr (performs_of_engine hu hp hd))))
    · by_cases hclr : i = .errClr
      · subst hclr
        exact .inr (.inr (.inr (.inl (performs_of_engine hu hp hd))))
      · have herr := bodyOf_err hsrst hclr hv
        exact .inl herr
    · cases he : s.err with
      | true => exact .inl (by simp [failed, started, he])
      | false => exact .inr (.inl ⟨completes_of_engine hu hp, rfl, rfl⟩)
  | illegal p r hp hd =>
    cases he : s.err with
    | true => exact .inl (by simp [failed, started, he])
    | false => exact .inr (.inl ⟨completes_of_engine hu hp, rfl, rfl⟩)
  | writeStatus v => exact .inl (by simp [started])
  | _ => exact .inl ⟨rfl, rfl⟩

end

/-- Settles O53: a changed part was written by a performed command of the table (`step_writes`), and CTRL, PEND and STATUS
change at the turns named by the four lemmas above. -/
theorem elementsChangeOnlyAsTheTableSays : Obligations.ElementsChangeOnlyAsTheTableSays := by
  intro s t h hs ht
  have hwrites : ∀ {p}, ¬ Keeps s t p → ∃ i, Performs s i ∧ Instr.writes i p = true := step_writes h hs ht
  have hturn : TurnEffect (started s) (nextTurn s) t := (step_turn_or_reset h).resolve_right (by simp [hs, ht])
  refine ⟨fun hne => ?key, fun hne => ?ctr, fun hne => ?digest, fun hne => ?result, fun hne => ?encoder,
    fun hne => ?decoder, fun hne => (turn_ctrl hturn).resolve_left ?ctrl, fun hne => (turn_pend hturn).resolve_left ?pend,
    fun hne => (turn_done hturn).resolve_left hne, fun hne => (turn_err hturn).resolve_left ?err⟩
  case key =>
    obtain ⟨i, hi, hw⟩ := hwrites (p := .key) (not_and_or.2 hne)
    rcases writes_key hw with rfl | ⟨b, rfl⟩ | ⟨c, rfl⟩ | rfl
    exacts [.inl hi, .inr (.inl ⟨b, hi⟩), .inr (.inr (.inl ⟨c, hi⟩)), .inr (.inr (.inr hi))]
  case ctr =>
    obtain ⟨i, hi, hw⟩ := hwrites (p := .ctr) hne
    rcases writes_ctr hw with ⟨l, imm, rfl⟩ | ⟨imm, rfl⟩ | rfl
    exacts [.inl ⟨l, imm, hi⟩, .inr (.inl ⟨imm, hi⟩), .inr (.inr hi)]
  case digest =>
    obtain ⟨i, hi, hw⟩ := hwrites (p := .digest) (not_and_or.2 hne)
    rcases writes_digest hw with rfl | rfl | rfl
    exacts [.inl hi, .inr (.inl hi), .inr (.inr hi)]
  case result =>
    obtain ⟨i, hi, hw⟩ := hwrites (p := .result) (by simpa only [Keeps, not_and_or] using hne)
    rcases writes_result hw with rfl | rfl | rfl
    exacts [.inl hi, .inr (.inl hi), .inr (.inr hi)]
  case encoder =>
    obtain ⟨i, hi, hw⟩ := hwrites (p := .encoder) (by simpa only [Keeps, not_and_or] using hne)
    rcases writes_encoder hw with rfl | ⟨b, rfl⟩ | rfl | rfl
    exacts [.inl hi, .inr (.inl ⟨b, hi⟩), .inr (.inr (.inl hi)), .inr (.inr (.inr hi))]
  case decoder =>
    obtain ⟨i, hi, hw⟩ := hwrites (p := .decoder) (by simpa only [Keeps, not_and_or] using hne)
    rcases writes_decoder hw with rfl | ⟨k, c, rfl⟩ | rfl | rfl
    exacts [.inl hi, .inr (.inl ⟨k, c, hi⟩), .inr (.inr (.inl hi)), .inr (.inr (.inr hi))]
  case ctrl => simpa only [not_and_or] using hne
  case pend => exact not_and_or.2 hne
  case err => exact not_and_or.2 hne

end Sys2Proof.Machine
end

section
/-! Runs of a schedule (log 1, 70_reset_and_hazards.md R350, 60_exceptions.md R315): every step takes one turn off it, a
pending command stays pending through the host's turns, and the engine's turn performs it. -/

namespace Sys2Proof.Machine

open Sys2Proof.Claims

/-! ## Runs -/

theorem run_succ {s t : State} (h : step s = .next t) (n : Nat) :
    Host.Core.run core (n + 1) s = Host.Core.run core n t := by
  have hcore : core.step s = .next t := h
  simp only [Host.Core.run, hcore]

theorem run_succ_refused {s : State} {r : Refusal} (h : step s = .refused r) (n : Nat) :
    Host.Core.run core (n + 1) s = .refused r := by
  have hcore : core.step s = .refused r := h
  simp only [Host.Core.run, hcore]

theorem run_one (s : State) : Host.Core.run core 1 s = step s := by
  cases h : step s with
  | next t => exact run_succ h 0
  | fault f => exact nomatch f
  | refused r => exact run_succ_refused h 0

/-- A run in two stages. -/
theorem run_add {m : Nat} {s t : State} (h : Host.Core.run core m s = .next t) (n : Nat) :
    Host.Core.run core (m + n) s = Host.Core.run core n t := by
  induction m generalizing s with
  | zero =>
    obtain rfl := Host.Outcome.next.inj h
    rw [Nat.zero_add]
  | succ m ih =>
    cases hs : step s with
    | next s' =>
      rw [run_succ hs] at h
      rw [Nat.add_right_comm, run_succ hs, ih h]
    | fault f => exact nomatch f
    | refused r =>
      rw [run_succ_refused hs] at h
      cases h

/-! ## The schedule through one step -/

theorem turnEffect_turns {u : Turn} {s t : State} (h : TurnEffect s u t) : t.bus.turns = s.bus.turns := by
  rcases turnEffect_bus h with ⟨off, -, rfl⟩ | ⟨level, rfl⟩ | hbus
  · rfl
  · cases h; rfl
  · rw [hbus]

theorem step_turns {s t : State} (h : step s = .next t) : t.bus.turns = s.bus.turns.tail := by
  obtain ⟨v, hturn, rfl⟩ := step_cases h
  rw [holdReset_bus, turnEffect_turns hturn]
  rfl

theorem step_statusInv {s t : State} (hs : StatusInv s) (h : step s = .next t) : StatusInv t := by
  rcases step_turn_or_reset h with hturn | ⟨-, hreset⟩
  · exact statusInv_turnEffect hturn (statusInv_started hs)
  · rw [hreset]
    exact statusInv_hardReset t

/-- A step whose next turn is the host's with an admitted access, or another agent's, answers a next state. -/
theorem step_next {s : State} (h : ∀ a, Turn.host a ∈ s.bus.turns → Admitted a) : ∃ t, step s = .next t := by
  have hagent : ∃ t, agentTurn (nextTurn s) (started s) = .next t := by
    cases hu : nextTurn s with
    | host a =>
      refine (hostAccess_next_iff a _).2 (h a ?_)
      exact List.mem_of_mem_head? (hostNext_of_nextTurn hu)
    | engine => exact engineStep_next _
    | resetInput level => exact ⟨_, rfl⟩
  obtain ⟨t, ht⟩ := hagent
  exact ⟨_, step_next_of_agentTurn ht⟩

/-- After the engine's turn no command is pending. -/
theorem step_engine_idle {s t : State} (hs : StatusInv s) (hnext : EngineNext s) (h : step s = .next t) :
    t.pend = none ∧ t.busy = false := by
  rcases step_turn_or_reset h with hturn | ⟨-, hreset⟩
  case inr => rw [hreset]; exact ⟨rfl, rfl⟩
  case inl =>
    rw [nextTurn_engine hnext] at hturn
    cases hturn with
    | idle hp => exact ⟨hp, hs.busy_iff_pending.trans (by rw [show s.pend = none from hp]; rfl)⟩
    | performed p i t hp hd hx => exact exec_idle hx
    | illegal p r hp hd => exact ⟨rfl, rfl⟩

/-- A schedule of admitted accesses runs through, and after one more turn no command is pending. -/
theorem run_schedule_idle {s : State} (hs : StatusInv s) (h : ∀ a, Turn.host a ∈ s.bus.turns → Admitted a) :
    ∃ t, Host.Core.run core (s.bus.turns.length + 1) s = .next t ∧ t.pend = none ∧ t.busy = false := by
  generalize hturns : s.bus.turns = turns at h ⊢
  induction turns generalizing s with
  | nil =>
    obtain ⟨t, ht⟩ := step_next (s := s) (by rw [hturns]; exact h)
    exact ⟨t, (run_one s).trans ht, step_engine_idle hs (.inr hturns) ht⟩
  | cons u us ih =>
    obtain ⟨t, ht⟩ := step_next (s := s) (by rw [hturns]; exact h)
    rw [List.length_cons, run_succ ht]
    exact ih (step_statusInv hs ht) (by rw [step_turns ht, hturns]; rfl) fun a ha => h a (List.mem_cons_of_mem u ha)

/-! ## A pending command before the engine's turn -/

/-- Nothing but CTRL, the error fields and the bus record changes. -/
structure Undisturbed (s t : State) : Prop where
  parts : ∀ p, Keeps s t p
  busy : t.busy = s.busy
  done : t.done = s.done
  pend : t.pend = s.pend

theorem Undisturbed.trans {s t u : State} (h : Undisturbed s t) (h' : Undisturbed t u) : Undisturbed s u :=
  ⟨fun p => (h.parts p).trans (h'.parts p), h'.busy.trans h.busy, h'.done.trans h.done, h'.pend.trans h.pend⟩

theorem undisturbed_iff {s t : State} : Undisturbed s t ↔ t = { s with
    strict := t.strict, ieDone := t.ieDone, ieErr := t.ieErr, err := t.err, errcode := t.errcode, bus := t.bus } := by
  constructor
  · intro h
    refine (eq_of_keeps h.parts).trans ?_
    rw [h.busy, h.done, h.pend]
  · intro h
    rw [h]
    exact ⟨fun p => by cases p <;> simp [Keeps], rfl, rfl, rfl⟩

theorem recordError_undisturbed (e : Error) (s : State) : Undisturbed s (recordError e s) :=
  ⟨fun p => by cases p <;> simp [Keeps], recordError_busy s e, recordError_done s e, recordError_pend s e⟩

theorem writeStatus_undisturbed (v : Word) {s : State} (hdone : s.done = false) : Undisturbed s (writeStatus v s) :=
  ⟨fun p => by cases p <;> simp [Keeps], writeStatus_busy s v, by rw [writeStatus_done, hdone]; rfl, writeStatus_pend s v⟩

/-- A host's access beside SRST's write does not disturb a pending command: BUSY = 1 keeps others from being accepted, and
DONE is 0 already. -/
theorem hostStep_undisturbed {s : State} {a : Access} (hs : StatusInv s) (hreset : s.bus.resetPin = false)
    (hbusy : s.busy = true) (hnext : HostNext s a) (ha : Admitted a) (hsrst : a ≠ writeAt 0x00 0x01000000) :
    ∃ t, step s = .next t ∧ Undisturbed s t ∧ t.bus.resetPin = false := by
  obtain ⟨t, ht⟩ := (hostAccess_next_iff a (started s)).2 ha
  have hturn := hostAccess_cases ht
  have hstep : step s = .next t := by
    rw [step_eq_agentTurn hreset (by simp [nextTurn_host hnext]), agentTurn_of_hostNext hnext, ht]
  have hdone := hs.done_not_busy hbusy
  have hstarted : Undisturbed s (started s) := ⟨started_keeps s, rfl, rfl, rfl⟩
  refine ⟨t, hstep, ?_⟩
  generalize hu : Turn.host a = u at hturn
  cases hturn with
  | srst => cases hu; exact absurd rfl hsrst
  | overrun w hw hb => exact ⟨hstarted.trans (recordError_undisturbed _ _), by simpa [started] using hreset⟩
  | accept w hw hb he => exact absurd (hbusy.symm.trans hb) (by decide)
  | writeStatus v => exact ⟨hstarted.trans (writeStatus_undisturbed v hdone), by simpa [started] using hreset⟩
  | performed p i t hp hd hx => cases hu
  | illegal p r hp hd => cases hu
  | resetInput level => cases hu
  | _ => exact ⟨⟨fun p => by cases p <;> simp [Keeps, started], rfl, rfl, rfl⟩, hreset⟩

theorem run_host_undisturbed {s : State} {before after : List Turn} (hs : StatusInv s) (hreset : s.bus.resetPin = false)
    (hbusy : s.busy = true) (hturns : s.bus.turns = before ++ after)
    (hhost : ∀ u ∈ before, ∃ a, u = .host a ∧ Admitted a ∧ a ≠ writeAt 0x00 0x01000000) :
    ∃ t, Host.Core.run core before.length s = .next t ∧ t.bus.turns = after ∧ Undisturbed s t ∧
      t.bus.resetPin = false := by
  induction before generalizing s with
  | nil => exact ⟨s, rfl, hturns, ⟨Keeps.refl s, rfl, rfl, rfl⟩, hreset⟩
  | cons u us ih =>
    obtain ⟨a, rfl, ha, hsrst⟩ := hhost u List.mem_cons_self
    have hnext : HostNext s a := congrArg List.head? hturns
    obtain ⟨t, ht, hst, hreset'⟩ := hostStep_undisturbed hs hreset hbusy hnext ha hsrst
    obtain ⟨v, hv, hafter, htv, hvreset⟩ := ih (step_statusInv hs ht) hreset' (hst.busy.trans hbusy)
      (by rw [step_turns ht, hturns]; rfl) fun u hu => hhost u (List.mem_cons_of_mem _ hu)
    exact ⟨v, (run_succ ht us.length).trans hv, hafter, hst.trans htv, hvreset⟩

/-- Settles O14: `run_schedule_idle` for the whole schedule, and for the turns before the engine's `run_host_undisturbed`,
after which the engine performs what still stands in PEND. -/
theorem pendingCommandCompletes : Obligations.PendingCommandCompletes := by
  refine ⟨fun s hs h => run_schedule_idle hs h, ?performed⟩
  case performed =>
    intro s p before after hs hreset hp hturns hafter hhost
    have hbusy : s.busy = true := by rw [hs.busy_iff_pending, hp]; rfl
    obtain ⟨t, ht, htturns, hst, htreset⟩ := run_host_undisturbed hs hreset hbusy hturns hhost
    refine ⟨t, ht, htturns, undisturbed_iff.1 hst, ?_⟩
    have hnext : EngineNext t := by
      unfold EngineNext
      rw [htturns]
      exact hafter.symm
    have htp : t.pend = some p := hst.pend.trans hp
    refine (run_add ht 1).trans ((run_one t).trans ((step_of_engineNext htreset hnext).trans ?_))
    cases hd : decode p.word with
    | ok i => exact engineStep_performs (s := started t) htp hd
    | error r => exact engineStep_illegal (s := started t) htp hd

/-! ## A command line (30_encoding.md R103) -/

/-- Polls of STATUS change the bus record only. -/
theorem run_polls (n : Nat) {s : State} {rest : List Turn} (hreset : s.bus.resetPin = false)
    (hturns : s.bus.turns = List.replicate n (memRead 0x08) ++ rest) :
    ∃ b, Host.Core.run core n s = .next { s with bus := b } ∧ b.resetPin = false ∧ b.turns = rest := by
  induction n generalizing s with
  | zero => exact ⟨s.bus, rfl, hreset, hturns⟩
  | succ n ih =>
    rw [List.replicate_succ, List.cons_append] at hturns
    have hnext : HostNext s (readAt 0x08) := congrArg List.head? hturns
    have hstep := step_of_read hreset (by decide) hnext
    obtain ⟨b, hb, hb'⟩ := ih (s := regRead 0x08 (started s)) hreset (congrArg List.tail hturns)
    exact ⟨b, (run_succ hstep n).trans hb, hb'⟩

/-- Settles O16: the write is accepted, the polls change the bus record only, the engine's turn performs the command, which
does not depend on that record (`exec_withBus`), and the last poll reads STATUS. -/
theorem commandLineRunsTheCommand : Obligations.CommandLineRunsTheCommand := by
  intro s i lat hi hreset hbusy herr hturns
  obtain ⟨t, ht⟩ := exec_next i { s with pend := some ⟨encode i, s.strict⟩, busy := true, done := false }
  have hwrite : step s = .next (accept (encode i) (started s)) := by
    have hnext : HostNext s (writeAt 0x00 (encode i)) := congrArg List.head? hturns
    exact (step_of_cmdWrite hreset hnext).trans (issue_accepted (encode_ne_srstWord hi) hbusy (.inl herr))
  obtain ⟨b, hpolls, hbreset, hbturns⟩ := run_polls lat (s := accept (encode i) (started s))
    (rest := [.engine, memRead 0x08]) hreset (congrArg List.tail hturns)
  have hperform : step { accept (encode i) (started s) with bus := b } =
      .next { t with bus := { b with turns := b.turns.tail } } := by
    have hnext : EngineNext { accept (encode i) (started s) with bus := b } := .inl (congrArg List.head? hbturns)
    refine (step_of_engineNext hbreset hnext).trans ((engineStep_performs rfl (decode_encode i)).trans ?_)
    exact exec_withBus hi ht { b with turns := b.turns.tail }
  have hpoll := step_of_read (s := { t with bus := { b with turns := b.turns.tail } }) (off := 0x08) hbreset (by decide)
    (congrArg (List.head? ∘ List.tail) hbturns)
  have hrun := (run_succ hwrite (lat + 2)).trans ((run_add hpolls 2).trans
    ((run_succ hperform 1).trans ((run_one _).trans hpoll)))
  exact ⟨t, _, ht, hrun, rfl, congrArg (List.tail ∘ List.tail) hbturns⟩

end Sys2Proof.Machine
end

section
/-! The Base32 alphabet (10_state.md R35, 41_base32.md R150) and B32D_CHAR on every character under both policies (R162,
R163). -/

namespace Sys2Proof.Machine

open Sys2Proof.Claims

/-! ## The alphabet -/

theorem symbolIndex_symbol (x : BitVec 5) : symbolIndex (symbol x) = some x := by
  revert x
  decide

theorem symbol_of_symbolIndex {c : Byte} {x : BitVec 5} (h : symbolIndex c = some x) : symbol x = c := by
  have hall : ∀ c : Byte, ∀ x ∈ symbolIndex c, symbol x = c := by decide
  exact hall c x h

theorem symbolIndex_isSome (c : Byte) : (symbolIndex c).isSome = inAlpha c := by
  revert c
  decide

theorem normChar_eq (c : Byte) :
    normChar c = if 0x61 ≤ c.toNat ∧ c.toNat ≤ 0x7A then BitVec.ofNat 8 (c.toNat - 0x20) else c := by
  revert c
  decide

/-- Settles O45: the tables are finite, and each clause is a lemma above. -/
theorem indexInvertsAlphabet : Obligations.IndexInvertsAlphabet :=
  ⟨fun x => ⟨symbol_eq_symbolCode x, symbolIndex_symbol x⟩, fun _ _ => symbol_of_symbolIndex, symbolIndex_isSome,
    normChar_eq⟩

/-- Folding makes no `=` of another character. -/
theorem normChar_eq_pad_iff (c : Byte) : normChar c = 0x3D ↔ c = 0x3D := by
  revert c
  decide

theorem symbolIndex_of_not_inAlpha {c : Byte} (h : inAlpha c = false) : symbolIndex c = none := by
  rw [← symbolIndex_isSome] at h
  exact Option.isNone_iff_eq_none.1 (by simpa using h)

theorem symbolIndex_of_inAlpha {c : Byte} (h : inAlpha c = true) : ∃ x, symbolIndex c = some x := by
  rw [← symbolIndex_isSome] at h
  exact Option.isSome_iff_exists.1 h

/-! ## Skipping and rejecting (R162, R163) -/

theorem exec_b32dChar (k : Bool) (c : Byte) (s : State) :
    exec (.b32dChar k c) s = complete s (decodeChar k c (latchedStrict s) s) := rfl

theorem exec_b32dChar_outside {k : Bool} {c : Byte} {s : State} (h : inAlpha (normChar c) = false) (hc : c ≠ 0x3D) :
    exec (.b32dChar k c) s = .next (if latchedStrict s then failed .invalidEncoding s else
      finished (setDout none true false 0 s)) := by
  rw [exec_b32dChar, decodeChar_outside (symbolIndex_of_not_inAlpha h) (mt (normChar_eq_pad_iff c).1 hc)]
  split
  · exact complete_error s _
  · exact complete_ok s _

theorem exec_b32dChar_afterPad {k : Bool} {c : Byte} {s : State} (h : inAlpha (normChar c) = true) (hpad : s.dpad = true)
    (hstrict : latchedStrict s = true) : exec (.b32dChar k c) s = .next (failed .invalidEncoding s) := by
  obtain ⟨x, hx⟩ := symbolIndex_of_inAlpha h
  rw [exec_b32dChar, decodeChar_afterPad hx (by rw [hpad, hstrict]; rfl)]
  exact complete_error s _

/-- Settles O48: the branches of R162 but the one that decodes a symbol. -/
theorem decoderSkipsOrRejects : Obligations.DecoderSkipsOrRejects := by
  intro s k c skipped
  refine ⟨?pad, fun h hc hstrict => ?skipped, fun h hc hstrict => ?rejected, exec_b32dChar_afterPad⟩
  case pad =>
    rintro rfl
    rw [exec_b32dChar, decodeChar_pad (by decide)]
    exact complete_ok s _
  case skipped =>
    rw [exec_b32dChar_outside h hc, hstrict]
    simp only [skipped, decide_eq_false hc]
    rfl
  case rejected =>
    rw [exec_b32dChar_outside h hc, hstrict]
    rfl

/-! ## The latched policy (40_control.md R121) -/

theorem latchedStrict_of_pending {s : State} {p : Pending} (hp : s.pend = some p) : latchedStrict s = p.strict := by
  simp [latchedStrict, hp]

theorem appendKey_dpad (byte : Byte) (s : State) (b : Bool) :
    appendKey byte { s with dpad := b } = (appendKey byte s).map fun u => { u with dpad := b } := by
  by_cases hk : s.keylen.val < 64
  · rw [appendKey_ok hk, appendKey_ok (s := { s with dpad := b }) hk]
    rfl
  · have hfull : s.keylen.val = 64 := by omega
    rw [appendKey_full hfull, appendKey_full (s := { s with dpad := b }) hfull]
    rfl

/-- The decoder's step on a symbol neither reads DPAD nor writes it. -/
theorem decodeSymbol_dpad (k : Bool) (x : BitVec 5) (s : State) (b : Bool) :
    decodeSymbol k x { s with dpad := b } = (decodeSymbol k x s).map fun u => { u with dpad := b } := by
  have hroute : ∀ byte, routeByte k byte { s with dpad := b } = (routeByte k byte s).map fun u => { u with dpad := b } := by
    cases k with
    | false => exact fun _ => rfl
    | true => exact fun byte => appendKey_dpad byte s b
  simp only [decodeSymbol_eq, completedByte, shiftedIn, hroute]
  split
  · cases routeByte k _ s <;> rfl
  · rfl

/-- Settles O49: PEND holds the policy; CTRL is no part that B32D_CHAR touches (`exec_of_sameParts`); the latched bit selects
the branch, and the permissive one does not depend on DPAD. -/
theorem policyIsLatchedAtAcceptance : Obligations.PolicyIsLatchedAtAcceptance := by
  intro s p k c hp
  have hlatched : latchedStrict s = p.strict := latchedStrict_of_pending hp
  refine ⟨hlatched, fun t b h => ?ctrl, fun h hc => ?outside, fun h hpad =>
    ⟨fun hstrict => ?rejected, fun hstrict => ?decoded⟩⟩
  case ctrl =>
    obtain ⟨hbus, -, hieDone, hieErr⟩ := exec_frame h
    have hpolicy : latchedStrict { s with strict := b } = latchedStrict s := by
      rw [hlatched]
      exact latchedStrict_of_pending hp
    have hsame : ∀ q, Keeps s { s with strict := b } q := fun q => by cases q <;> simp [Keeps]
    rw [exec_of_sameParts (by simp) hpolicy hsame rfl rfl h, ← hbus, ← hieDone, ← hieErr]
  case outside =>
    rw [exec_b32dChar_outside h hc, hlatched]
    rfl
  case rejected => exact exec_b32dChar_afterPad h hpad (hlatched.trans hstrict)
  case decoded =>
    obtain ⟨x, hx⟩ := symbolIndex_of_inAlpha h
    have hpermissive : latchedStrict s = false := hlatched.trans hstrict
    have hexec : ∀ b, exec (.b32dChar k c) { s with dpad := b } =
        complete { s with dpad := b } ((decodeSymbol k x s).map fun u => { u with dpad := b }) := fun b => by
      have hsame : latchedStrict { s with dpad := b } = false := hpermissive
      rw [exec_b32dChar, hsame, decodeChar_symbol hx rfl, decodeSymbol_dpad]
    have hs : s = { s with dpad := true } := by rw [← hpad]
    cases hsym : decodeSymbol k x s with
    | ok u =>
      rw [hsym] at hexec
      exact ⟨_, hexec false, (congrArg (exec _) hs).trans (hexec true)⟩
    | error e =>
      rw [hsym] at hexec
      exact ⟨_, (hexec false).trans (complete_error _ e),
        (congrArg (exec _) hs).trans ((hexec true).trans (complete_error _ e))⟩

/-! ## Decoding a symbol (R162) -/

theorem symbolIndex_of_symbolCode {c : Byte} {x : Nat} (hx : x < 32) (hc : c = symbolCode x) :
    symbolIndex c = some (BitVec.ofNat 5 x) := by
  have hval : (BitVec.ofNat 5 x).toNat = x := Nat.mod_eq_of_lt hx
  rw [hc, ← symbolIndex_symbol, symbol_eq_symbolCode, hval]

/-- The completed byte is the top 8 bits, as arithmetic. -/
theorem completedByte_eq (x : BitVec 5) (s : State) :
    completedByte x s = BitVec.ofNat 8 ((shiftedIn x s).toNat / 2 ^ (s.dcnt.val + 5 - 8)) := by
  refine BitVec.eq_of_toNat_eq ?_
  rw [completedByte, BitVec.toNat_setWidth, BitVec.toNat_ushiftRight, Nat.shiftRight_eq_div_pow, BitVec.toNat_ofNat]

/-- An admitted character of the alphabet is decoded as its index. -/
theorem exec_b32dChar_symbol {k : Bool} {c : Byte} {x : BitVec 5} {s : State} (hx : symbolIndex (normChar c) = some x)
    (hadmit : latchedStrict s = false ∨ s.dpad = false) :
    exec (.b32dChar k c) s = complete s (decodeSymbol k x s) := by
  have hpad : (latchedStrict s && s.dpad) = false := by
    rcases hadmit with h | h <;> simp [h]
  rw [exec_b32dChar, decodeChar_symbol hx hpad]

/-- With room for it, a byte is routed: appended to the key buffer with K = 1, and nowhere with K = 0. -/
theorem routeByte_ok {k : Bool} {s : State} (byte : Byte) (hroom : k = true → s.keylen.val < 64) :
    ∃ key keylen, routeByte k byte s = .ok { s with key := key, keylen := keylen } ∧
      (k = false → key = s.key ∧ keylen = s.keylen) ∧
      (k = true → keylen.val = s.keylen.val + 1 ∧
        ∀ i : Fin 64, key[i] = if i.val = s.keylen.val then byte else s.key[i]) := by
  cases k with
  | false => exact ⟨s.key, s.keylen, rfl, fun _ => ⟨rfl, rfl⟩, nofun⟩
  | true =>
    refine ⟨_, _, appendKey_ok (hroom rfl), nofun, fun _ => ⟨rfl, fun i => ?_⟩⟩
    exact (Vector.getElem_set (hroom rfl) i.isLt).trans (if_congr eq_comm rfl rfl)

/-- Settles O47: `decodeSymbol_eq` on either side of 8 bits, the accumulator read as a number; B32D_CHAR is row 14. -/
theorem decoderTakesOneSymbol : Obligations.DecoderTakesOneSymbol := by
  refine ⟨?symbol, completesAs_opTable 14⟩
  intro s k c x hbound hx hc hadmit v n
  have hcnt := s.dcnt.isLt
  have hv : (shiftedIn (BitVec.ofNat 5 x) s).toNat = v := by
    rw [shiftedIn, decoder_shiftIn hbound, BitVec.toNat_ofNat, Nat.mod_eq_of_lt hx]
  have hvn : v < 2 ^ n := by
    have hpow : 2 ^ n = 2 ^ s.dcnt.val * 32 := Nat.pow_add 2 _ 5
    omega
  have hexec := exec_b32dChar_symbol (k := k) (symbolIndex_of_symbolCode hx hc) hadmit
  rw [decodeSymbol_eq, completedByte_eq, hv] at hexec
  refine ⟨fun hn => ?short, fun hn hroom => ?full, fun hn hk hlen => ?overflow⟩
  case short =>
    rw [if_neg (by omega), complete_ok] at hexec
    refine ⟨_, hexec, rfl, ?_, keepBits_dcnt hn (shiftedIn (BitVec.ofNat 5 x) s) s⟩
    exact (keepBits_dacc hn _ s).trans (by rw [hv, Nat.mod_eq_of_lt hvn])
  case full =>
    obtain ⟨key, keylen, hroute, hkept, happended⟩ := routeByte_ok (BitVec.ofNat 8 (v / 2 ^ (n - 8))) hroom
    rw [if_pos hn, hroute] at hexec
    have hlow : n - 8 < 8 := by omega
    refine ⟨_, hexec.trans (complete_ok s _), rfl, ?_, keepBits_dcnt hlow (shiftedIn (BitVec.ofNat 5 x) s) s, hkept,
      happended⟩
    exact (keepBits_dacc hlow _ s).trans (by rw [hv])
  case overflow =>
    rw [if_pos hn, hk, routeByte, if_pos rfl, appendKey_full hlen] at hexec
    rw [hk, hexec]
    exact complete_error s _

end Sys2Proof.Machine
end

section
/-! The fixed plan of four compressions (43_hmac_sha1.md R240), trailing zero key bytes (R239), and HOTP as HMAC followed by
DTRUNC (44_truncation.md R276). -/

namespace Sys2Proof.Machine

open Sys2Proof.Claims

/-- SHA-1 of one block and a short rest: the rest and the padding fill a second block. -/
theorem sha1_block_append {A m : List Byte} (hA : A.length = 64) (hm : m.length ≤ 55) :
    sha1 (A ++ m) = (sha1Compress (sha1Compress hInit A)
      (m ++ [0x80] ++ List.replicate (55 - m.length) 0 ++ be64 (BitVec.ofNat 64 (8 * (64 + m.length))))).bytes := by
  have hzeros : padZeros (64 + m.length) = 55 - m.length := by unfold padZeros; omega
  have hpad : sha1Pad (A ++ m) = A ++ (m ++ [0x80] ++ List.replicate (55 - m.length) 0 ++
      be64 (BitVec.ofNat 64 (8 * (64 + m.length)))) := by
    rw [sha1Pad, List.length_append, hA, hzeros]
    simp only [List.append_assoc]
  rw [sha1, hpad, blocks_two hA (by simp; omega)]
  rfl

/-- Settles O36: each of HMAC's two hashes is of a key block and a rest of 8 or 20 bytes. -/
theorem fixedPlanIsHmac : Obligations.FixedPlanIsHmac := by
  intro k ctr _ hk
  rw [hmacSha1, ← be64_eq_bigEndian64, sha1_block_append (innerKey_length hk) (by simp),
    sha1_block_append (outerKey_length hk) (by simp), be64_length, HashWords.bytes_length]
  rfl

theorem hmacKeyBlock_append_zeros {k : List Byte} {n : Nat} (h : k.length + n ≤ 64) :
    hmacKeyBlock (k ++ List.replicate n 0) = hmacKeyBlock k := by
  have hzeros : 64 - k.length = n + (64 - (k.length + n)) := by omega
  simp only [hmacKeyBlock, List.length_append, List.length_replicate, List.append_assoc]
  rw [hzeros, List.replicate_add]

/-- Settles O37: the key block is the same, and HMAC uses the key in no other way. -/
theorem trailingZeroKeyBytesDoNotMatter : Obligations.TrailingZeroKeyBytesDoNotMatter := by
  intro k m n h
  simp only [hmacSha1, innerKey, outerKey, hmacKeyBlock_append_zeros h]

theorem exec_hotp_of_secret {s : State} (hk : s.keylen.val ≠ 0) :
    exec .hotp s = .next (finished (truncateDigest { s with digest := keyedDigest s, dv := true })) :=
  (congrArg (fun r : Except Error State => complete s (r.map truncateDigest)) (if_neg hk)).trans (complete_ok s _)

theorem exec_hotp_no_secret {s : State} (hk : s.keylen.val = 0) : exec .hotp s = .next (failed .invalidSecret s) :=
  (congrArg (fun r : Except Error State => complete s (r.map truncateDigest)) (if_pos hk)).trans (complete_error s _)

/-- Settles O40: HMAC leaves DV = 1, so DTRUNC truncates its digest, as HOTP's body does; HOTP is row 9. -/
theorem hotpIsHmacThenDtrunc : Obligations.HotpIsHmacThenDtrunc := by
  refine ⟨fun s => ⟨fun hk => ?_, exec_hotp_no_secret⟩, completesAs_opTable 9⟩
  exact ⟨_, _, exec_hmac_of_secret hk, exec_dtrunc_of_digest rfl, exec_hotp_of_secret hk⟩

/-- The code of a digest is the source's `Compute` of its bytes: masking the sign bit is reduction modulo 2^31. -/
theorem codeNumber_eq_computeCode (D : Vector Byte 20) : (codeNumber D).val = computeCode D.toList := by
  have hoffset : (truncOffset D).toNat = (D.toList.getD 19 0).toNat % 16 := by
    rw [truncOffset_toNat, digest_getD D (by decide)]
  have hmask : (truncValue D).toNat % 1000000 = computeCode D.toList := by
    rw [truncValue_toNat D hoffset, computeCode]
    generalize (D.toList.getD 19 0).toNat % 16 = o
    have h1 := (D.toList.getD (o + 1) 0).isLt
    have h2 := (D.toList.getD (o + 2) 0).isLt
    have h3 := (D.toList.getD (o + 3) 0).isLt
    refine congrArg (· % 1000000) ?_
    omega
  exact hmask

end Sys2Proof.Machine
end

section
/-! Lists of commands (30_encoding.md R104, 42_key_counter.md R202, R203, 44_truncation.md R277): loading the counter and a
secret, and the code of both. -/

namespace Sys2Proof.Machine

open Sys2Proof.Claims

/-! ## Running a list -/

theorem runCommands_nil (view : State → List Byte) (s : State) : runCommands view [] s = some ([], s) := rfl

theorem runCommands_cons {view : State → List Byte} {i : Instr} {is : List Instr} {s t u : State} {out : List Byte}
    (h : exec i s = .next t) (hrest : runCommands view is t = some (out, u)) :
    runCommands view (i :: is) s = some (view t ++ out, u) := by
  simp [runCommands, h, hrest]

theorem runCommands_append {view : State → List Byte} {is js : List Instr} {s t u : State} {out out' : List Byte}
    (h : runCommands view is s = some (out, t)) (h' : runCommands view js t = some (out', u)) :
    runCommands view (is ++ js) s = some (out ++ out', u) := by
  induction is generalizing s out with
  | nil =>
    obtain ⟨rfl, rfl⟩ := Prod.mk.inj (Option.some.inj h)
    exact h'
  | cons i is ih =>
    obtain ⟨v, hv⟩ := exec_next i s
    simp only [runCommands, hv, Option.map_eq_some_iff] at h
    obtain ⟨⟨mid, w⟩, hmid, heq⟩ := h
    obtain ⟨rfl, rfl⟩ := Prod.mk.inj heq
    rw [List.append_assoc]
    exact runCommands_cons hv (ih hmid)

/-! ## The counter (R203, R104) -/

/-- The four lanes of a value, replaced one after the other, are the value. -/
theorem replaceLane_all (a c : Counter) :
    replaceLane (replaceLane (replaceLane (replaceLane a 3 (c.extractLsb' 48 16)) 2 (c.extractLsb' 32 16)) 1
      (c.extractLsb' 16 16)) 0 (c.extractLsb' 0 16) = c := by
  refine BitVec.eq_of_getLsbD_eq fun j hj => ?_
  have hlow : j % 16 < 16 := Nat.mod_lt j (by decide)
  simp only [replaceLane_getLsbD _ _ _ hj, BitVec.getLsbD_extractLsb', hlow, decide_true, Bool.true_and]
  obtain h | h | h | h : j / 16 = 0 ∨ j / 16 = 1 ∨ j / 16 = 2 ∨ j / 16 = 3 := by omega
  all_goals
    simp only [h]
    simp
    congr 1
    omega

theorem exec_ctrLd (lane : BitVec 2) (imm : BitVec 16) (s : State) :
    exec (.ctrLd lane imm) s = .next (finished { s with ctr := replaceLane s.ctr lane imm }) := complete_ok s _

theorem exec_ctrAddi (imm : BitVec 16) (s : State) :
    exec (.ctrAddi imm) s = .next (finished { s with ctr := s.ctr + sext64 imm }) := complete_ok s _

theorem run_loadCounter (s : State) (c : Counter) :
    runCommands (fun _ => []) (loadCounter c) s = some ([], { finished s with ctr := c }) := by
  have hnext : ∀ lane imm x, exec (.ctrLd lane imm) { finished s with ctr := x } =
      .next { finished s with ctr := replaceLane x lane imm } := fun lane imm x => exec_ctrLd lane imm _
  refine (runCommands_cons (exec_ctrLd 3 _ s) (runCommands_cons (hnext 2 _ _) (runCommands_cons (hnext 1 _ _)
    (runCommands_cons (hnext 0 _ _) (runCommands_nil _ _))))).trans ?_
  exact congrArg (fun x => some ([], { finished s with ctr := x })) (replaceLane_all s.ctr c)

/-- Settles O33: CTR_SET replaces all four lanes; CTR_INC and CTR_DEC add 1 and −1. -/
theorem ctrSetLoadsTheCounter : Obligations.CtrSetLoadsTheCounter := by
  have hinc : sext64 1 = 1 := by decide
  have hdec : sext64 (-1) = -1 := by decide
  refine ⟨run_loadCounter, fun s => ⟨?_, ?_⟩⟩
  · refine (runCommands_cons (exec_ctrAddi 1 s) (runCommands_nil _ _)).trans ?_
    rw [hinc]
    rfl
  · refine (runCommands_cons (exec_ctrAddi (-1) s) (runCommands_nil _ _)).trans ?_
    rw [hdec, ← sub_eq_add_neg]
    rfl

/-! ## The secret (R202) -/

theorem secret_length (s : State) : (secret s).length = s.keylen.val := by
  have := s.keylen.isLt
  simp [secret]
  omega

/-- A byte written at KEYLEN and counted is appended to the Secret. -/
theorem secret_eq_append {s t : State} {b : Byte} (hk : s.keylen.val < 64) (hlen : t.keylen.val = s.keylen.val + 1)
    (hkey : ∀ i : Fin 64, t.key[i] = if i.val = s.keylen.val then b else s.key[i]) : secret t = secret s ++ [b] := by
  refine List.ext_getElem (by simp [secret_length, hlen]) fun i hi _ => ?_
  have hi64 : i < 64 := by rw [secret_length] at hi; omega
  have hget : (secret t)[i] = if i = s.keylen.val then b else s.key[i] :=
    (List.getElem_take.trans (Vector.getElem_toList _)).trans (hkey ⟨i, hi64⟩)
  rw [secret_length] at hi
  rw [hget, List.getElem_append]
  split
  · next heq => simp [secret_length, heq]
  · next hne =>
    have hlt : i < (secret s).length := by rw [secret_length]; omega
    rw [dif_pos hlt]
    exact ((List.getElem_take.trans (Vector.getElem_toList _))).symm

/-- The next byte appended to KEY is the next byte of the Secret. -/
theorem secret_appendKey {b : Byte} {s u : State} (h : appendKey b s = .ok u) :
    secret u = secret s ++ [b] ∧ u.keylen.val = s.keylen.val + 1 := by
  obtain ⟨hk, rfl⟩ := appendKey_cases h
  refine ⟨secret_eq_append hk rfl fun i => ?_, rfl⟩
  exact (Vector.getElem_set hk i.isLt).trans (if_congr eq_comm rfl rfl)

/-- KEY_BYTE for each byte of a string that fits appends the string to the Secret. -/
theorem run_keyBytes {s : State} {bytes : List Byte} (hinv : KeyInv s) (hfit : s.keylen.val + bytes.length ≤ 64) :
    ∃ t, runCommands (fun _ => []) (bytes.map .keyByte) (finished s) = some ([], t) ∧ secret t = secret s ++ bytes ∧
      t.keylen.val = s.keylen.val + bytes.length ∧ KeyInv t ∧
      t = { finished s with key := t.key, keylen := t.keylen } := by
  induction bytes generalizing s with
  | nil => exact ⟨finished s, runCommands_nil _ _, (List.append_nil _).symm, rfl, hinv, rfl⟩
  | cons b bytes ih =>
    rw [List.length_cons] at hfit ⊢
    have hk : s.keylen.val < 64 := by omega
    have hok := appendKey_ok (byte := b) hk
    obtain ⟨hsecret, hlen⟩ := secret_appendKey hok
    obtain ⟨t, hrun, ht, hcount, htinv, hframe⟩ := ih (keyInv_appendKey hok hinv) (by omega)
    refine ⟨t, runCommands_cons (exec_keyByte_of_lt (s := finished s) b hk) hrun, ?_, by omega, htinv, hframe⟩
    rw [ht, hsecret, List.append_assoc]
    rfl

theorem exec_keyClr (s : State) :
    exec .keyClr s = .next (finished { s with key := Vector.replicate 64 0, keylen := 0 }) := complete_ok s _

/-- KEY_CLR and KEY_BYTE for each byte make the string the Secret. -/
theorem run_loadSecret (s : State) {bytes : List Byte} (hfit : bytes.length ≤ 64) :
    ∃ t, runCommands (fun _ => []) (loadSecret bytes) s = some ([], t) ∧ secret t = bytes ∧
      t.keylen.val = bytes.length ∧ KeyInv t ∧ t = { finished s with key := t.key, keylen := t.keylen } := by
  set cleared : State := { s with key := Vector.replicate 64 0, keylen := 0 }
  have hinv : KeyInv cleared := fun i _ => Vector.getElem_replicate i.isLt
  obtain ⟨t, hrun, ht, hcount, htinv, hframe⟩ :=
    run_keyBytes (s := cleared) hinv (by simpa [cleared] using hfit)
  exact ⟨t, runCommands_cons (exec_keyClr s) hrun, ht, hcount.trans (Nat.zero_add _), htinv, hframe⟩

/-- Settles O30: the Secret is the string by `run_loadSecret`. -/
theorem loadedSecretIsTheString : Obligations.LoadedSecretIsTheString := by
  intro s bytes hfit
  obtain ⟨t, hrun, hsecret, hcount, hinv, hframe⟩ := run_loadSecret s hfit
  exact ⟨t, hrun, hcount, hsecret, hinv, hframe⟩

/-- Settles O41: the secret and the counter are loaded, and HOTP's digest is the HMAC of both. -/
theorem hotpProgramComputesTheCode : Obligations.HotpProgramComputesTheCode := by
  intro s bytes c hne hfit
  obtain ⟨u, hrun, hsecret, hcount, -, hframe⟩ := run_loadSecret s hfit
  obtain ⟨key, keylen, rfl⟩ : ∃ key keylen, u = { finished s with key := key, keylen := keylen } := ⟨_, _, hframe⟩
  set v : State := { finished s with key := key, keylen := keylen, ctr := c }
  have hk : v.keylen.val ≠ 0 := by
    have hlen : v.keylen.val = bytes.length := hcount
    omega
  have hdigest : (keyedDigest v).toList = hmacSha1 bytes (bigEndian64 c) := by
    rw [← hsecret]
    exact keyedDigest_toList v
  refine ⟨_, runCommands_append (runCommands_append hrun (run_loadCounter _ c))
    (runCommands_cons (exec_hotp_of_secret hk) (runCommands_nil _ _)), ?_, allDigits_codeChars _,
    decimalValue_codeChars (codeNumber _).isLt, rfl⟩
  rw [← hdigest]
  exact codeNumber_eq_computeCode _

/-- Settles O60: the expansions are the tables of R104; the listings of R104 map each command to its line. -/
theorem pseudoInstructionsExpand : Obligations.PseudoInstructionsExpand := by
  refine ⟨fun _ => rfl, rfl, rfl, fun bytes => ?load, fun text => ?key, fun bytes => ?enc, fun text => ?dec, rfl⟩
  case load => simp [Pseudo.expand, loadSecret, Function.comp_def]
  case key => simp [Pseudo.expand, Function.comp_def]
  case enc => simp [Pseudo.expand, List.flatMap]
  case dec => simp [Pseudo.expand, List.flatMap]

end Sys2Proof.Machine
end

section
/-! Base32 text as the symbols of 5-bit groups (20_memory.md R70, 41_base32.md R155): the groups of a bitstring, the last
one filled with zero bits, and the value of a group. -/

namespace Sys2Proof.Machine

open Sys2Proof.Claims

/-! ## The value of a group -/

theorem groupValue_append (a b : List Bool) : groupValue (a ++ b) = groupValue a * 2 ^ b.length + groupValue b := by
  induction b using List.reverseRecOn with
  | nil => simp [groupValue]
  | append_singleton b x ih =>
    have hsnoc : ∀ l : List Bool, groupValue (l ++ [x]) = 2 * groupValue l + x.toNat := fun l => by
      simp [groupValue]
    rw [← List.append_assoc, hsnoc, hsnoc, ih, List.length_append, List.length_singleton, Nat.pow_succ]
    ring

theorem groupValue_lt (a : List Bool) : groupValue a < 2 ^ a.length := by
  induction a using List.reverseRecOn with
  | nil => decide
  | append_singleton a x ih =>
    rw [groupValue_append, List.length_append, List.length_singleton, Nat.pow_succ]
    have hx : groupValue [x] < 2 := by cases x <;> decide
    omega

theorem groupValue_zeros (n : Nat) : groupValue (List.replicate n false) = 0 := by
  induction n with
  | zero => rfl
  | succ n ih => rw [List.replicate_succ', groupValue_append, ih]; rfl

theorem groupValue_append_div (a b : List Bool) : groupValue (a ++ b) / 2 ^ b.length = groupValue a := by
  rw [groupValue_append, Nat.add_comm, Nat.add_mul_div_right _ _ (Nat.two_pow_pos _),
    Nat.div_eq_of_lt (groupValue_lt b), Nat.zero_add]

theorem groupValue_append_mod (a b : List Bool) : groupValue (a ++ b) % 2 ^ b.length = groupValue b := by
  rw [groupValue_append, Nat.mul_add_mod_of_lt (groupValue_lt b)]

/-! ## The bits of a byte -/

/-- The 8 bits of a byte, the most significant first. -/
def byteBits (b : Byte) : List Bool := (List.range 8).map fun j => b.getMsbD j

@[simp] theorem byteBits_length (b : Byte) : (byteBits b).length = 8 := by simp [byteBits]

theorem groupValue_byteBits (b : Byte) : groupValue (byteBits b) = b.toNat := by
  revert b
  decide

theorem bitstream_cons (b : Byte) (bytes : List Byte) : bitstream (b :: bytes) = byteBits b ++ bitstream bytes :=
  List.flatMap_cons

@[simp] theorem bitstream_length (bytes : List Byte) : (bitstream bytes).length = 8 * bytes.length := by
  induction bytes with
  | nil => rfl
  | cons b bytes ih => rw [bitstream_cons, List.length_append, byteBits_length, ih, List.length_cons]; omega

/-! ## The groups of a bitstring -/

/-- The 5-bit groups of a bitstring, the last filled with zero bits on the right. -/
def bitGroups (bits : List Bool) : List (List Bool) :=
  (List.range ((bits.length + 4) / 5)).map fun g => (List.range 5).map fun j => bits.getD (5 * g + j) false

/-- The symbols of a list of groups. -/
def symbolsOf (groups : List (List Bool)) : List Byte := groups.map fun g => symbolCode (groupValue g)

theorem base32Text_eq (bytes : List Byte) : base32Text bytes = symbolsOf (bitGroups (bitstream bytes)) := by
  simp [base32Text, symbolsOf, bitGroups, Function.comp_def]

theorem length_of_mem_bitGroups {bits g : List Bool} (h : g ∈ bitGroups bits) : g.length = 5 := by
  obtain ⟨i, -, rfl⟩ := List.mem_map.1 h
  simp

theorem bitGroups_append {g rest : List Bool} (h : g.length = 5) : bitGroups (g ++ rest) = g :: bitGroups rest := by
  have hcount : ((g ++ rest).length + 4) / 5 = (rest.length + 4) / 5 + 1 := by simp; omega
  have hfirst : (List.range 5).map (fun j => (g ++ rest).getD j false) = g := by
    refine List.ext_getElem (by simp [h]) fun i hi _ => ?_
    have hi5 : i < g.length := by simpa [h] using hi
    rw [List.getElem_map, List.getElem_range, List.getD_append _ _ _ _ hi5, List.getD_eq_getElem _ _ hi5]
  have hrest : ∀ i j, (g ++ rest).getD (5 * (i + 1) + j) false = rest.getD (5 * i + j) false := fun i j => by
    rw [List.getD_append_right _ _ _ _ (by omega)]
    congr 1
    omega
  rw [bitGroups, bitGroups, hcount, List.range_succ_eq_map (n := (rest.length + 4) / 5), List.map_cons, List.map_map]
  simp only [Function.comp_def, Nat.succ_eq_add_one, hrest, Nat.mul_zero, Nat.zero_add, hfirst]

/-- Fewer than 5 bits make one group, or none when there are none. -/
theorem bitGroups_short {bits : List Bool} (h : bits.length < 5) :
    bitGroups bits = if bits.length = 0 then [] else [bits ++ List.replicate (5 - bits.length) false] := by
  split
  · next hzero => simp [bitGroups, hzero]
  · next hpos =>
    have hcount : (bits.length + 4) / 5 = 1 := by omega
    have hfirst : (List.range 5).map (fun j => bits.getD j false) = bits ++ List.replicate (5 - bits.length) false := by
      refine List.ext_getElem (by simp; omega) fun i hi _ => ?_
      rw [List.getElem_map, List.getElem_range, List.getElem_append]
      split
      · next hlt => exact List.getD_eq_getElem _ _ hlt
      · next hge => rw [List.getElem_replicate, List.getD_eq_default _ _ (by omega)]
    simp only [bitGroups, hcount, List.range_one, List.map_singleton, Nat.mul_zero, Nat.zero_add, hfirst]

/-- The groups hold the bits in order, followed by fewer than 5 zero bits. -/
theorem flatten_bitGroups (bits : List Bool) : ∃ rest, (bitGroups bits).flatten = bits ++ rest ∧ rest.length < 5 := by
  induction hn : bits.length using Nat.strong_induction_on generalizing bits with
  | _ n ih =>
    subst hn
    by_cases h5 : bits.length < 5
    · rw [bitGroups_short h5]
      split
      · next hzero => exact ⟨[], by simp [List.length_eq_zero_iff.1 hzero]⟩
      · exact ⟨List.replicate (5 - bits.length) false, by simp, by simp; omega⟩
    · obtain ⟨rest, hflat, hlen⟩ := ih (bits.drop 5).length (by simp; omega) (bits.drop 5) rfl
      have hsplit : bitGroups bits = bits.take 5 :: bitGroups (bits.drop 5) := by
        conv_lhs => rw [← List.take_append_drop 5 bits]
        exact bitGroups_append (by simp; omega)
      refine ⟨rest, ?_, hlen⟩
      rw [hsplit, List.flatten_cons, hflat, ← List.append_assoc, List.take_append_drop]

end Sys2Proof.Machine
end

section
/-! The encoder's commands over a byte string emit its Base32 text (41_base32.md R155): between commands the encoder holds
the bits that fill no group yet. -/

namespace Sys2Proof.Machine

open Sys2Proof.Claims

/-- The leftover bits of the encoder are `l`. -/
structure EncoderHolds (l : List Bool) (s : State) : Prop where
  count : s.ecnt.val = l.length
  value : s.eacc.toNat = groupValue l

theorem EncoderHolds.acc_bound {l : List Bool} {s : State} (h : EncoderHolds l s) : s.eacc.toNat < 2 ^ s.ecnt.val := by
  rw [h.count, h.value]
  exact groupValue_lt l

/-- A bitstring of at least 5 bits begins with a group. -/
theorem exists_group_append {bits : List Bool} (h : 5 ≤ bits.length) :
    ∃ g r, bits = g ++ r ∧ g.length = 5 ∧ r.length = bits.length - 5 :=
  ⟨bits.take 5, bits.drop 5, (List.take_append_drop 5 bits).symm, by simpa using h, by simp⟩

/-- B32E_BYTE emits the symbols of the whole groups of the leftover bits and the byte's, and holds the bits after them. -/
theorem exec_b32eByte_of_holds {l : List Bool} {s : State} (hs : EncoderHolds l s) (b : Byte) :
    ∃ t l' groups, exec (.b32eByte b) s = .next t ∧ EncoderHolds l' t ∧ emitted t = symbolsOf groups ∧
      (∀ rest, bitGroups (l ++ (byteBits b ++ rest)) = groups ++ bitGroups (l' ++ rest)) ∧
      t = { finished s with eacc := t.eacc, ecnt := t.ecnt, eoutC0 := t.eoutC0, eoutC1 := t.eoutC1, eoutN := t.eoutN } := by
  obtain ⟨t, hexec, hframe, hcnt, hacc, hn, hc0, hc1⟩ := encoderTakesOneByte.1 s b hs.acc_bound
  have hlt := s.ecnt.isLt
  obtain ⟨bits, hbits⟩ : ∃ bits, bits = l ++ byteBits b := ⟨_, rfl⟩
  have hlen : s.ecnt.val + 8 = bits.length := by rw [hbits, hs.count]; simp
  have hval : s.eacc.toNat * 256 + b.toNat = groupValue bits := by
    rw [hbits, groupValue_append, groupValue_byteBits, byteBits_length, hs.value]
    rfl
  simp only [hlen, hval] at hcnt hacc hn hc0 hc1
  simp only [← List.append_assoc, ← hbits]
  obtain ⟨g, r, rfl, hg, hr⟩ := exists_group_append (bits := bits) (by omega)
  rw [← hr, groupValue_append_div] at hc0
  by_cases hshort : (g ++ r).length < 10
  · have hmod : (g ++ r).length % 5 = r.length := by omega
    have hone : t.eoutN.val = 1 := by omega
    rw [hmod] at hcnt hacc
    refine ⟨t, r, [g], hexec, ⟨hcnt, hacc.trans (groupValue_append_mod g r)⟩, ?_, fun rest => ?_, hframe⟩
    · simp [emitted, symbolsOf, hone, hc0]
    · rw [List.append_assoc, bitGroups_append hg]
      rfl
  · obtain ⟨g', r', rfl, hg', hr'⟩ := exists_group_append (bits := r) (by omega)
    have hmod : (g ++ (g' ++ r')).length % 5 = r'.length := by omega
    have htwo : t.eoutN.val = 2 := by omega
    have hlast : (g ++ (g' ++ r')).length - 10 = r'.length := by omega
    have h32 : 32 = 2 ^ g'.length := by rw [hg']; rfl
    rw [if_neg hshort, hlast, ← List.append_assoc, groupValue_append_div, h32, groupValue_append_mod] at hc1
    rw [hmod] at hcnt hacc
    rw [← List.append_assoc, groupValue_append_mod] at hacc
    refine ⟨t, r', [g, g'], hexec, ⟨hcnt, hacc⟩, ?_, fun rest => ?_, hframe⟩
    · simp [emitted, symbolsOf, htwo, hc0, hc1]
    · rw [List.append_assoc, bitGroups_append hg, List.append_assoc, bitGroups_append hg']
      rfl

/-- B32E_FIN emits the symbol of the group that the leftover bits make, if any. -/
theorem exec_b32eFin_of_holds {l : List Bool} {s : State} (hs : EncoderHolds l s) :
    ∃ t, exec .b32eFin s = .next t ∧ emitted t = symbolsOf (bitGroups l) ∧
      t = { finished s with eacc := 0, ecnt := 0, eoutC0 := t.eoutC0, eoutC1 := t.eoutC1, eoutN := t.eoutN } := by
  refine ⟨_, (encoderClearAndFlush.1 s).2 hs.acc_bound, ?_, rfl⟩
  have hshort : l.length < 5 := hs.count ▸ s.ecnt.isLt
  rw [bitGroups_short hshort, ← hs.count]
  split
  · simp [emitted, symbolsOf, *]
  · simp [emitted, symbolsOf, *, groupValue_append, groupValue_zeros, hs.value]

/-- From held bits on, the encoder emits the symbols of the groups of those and of the bytes' bits. -/
theorem run_encodeBytes {l : List Bool} {s : State} (hs : EncoderHolds l s) (bytes : List Byte) :
    ∃ t, runCommands emitted (bytes.map .b32eByte ++ [.b32eFin]) s =
        some (symbolsOf (bitGroups (l ++ bitstream bytes)), t) ∧
      t = { finished s with eacc := 0, ecnt := 0, eoutC0 := t.eoutC0, eoutC1 := t.eoutC1, eoutN := t.eoutN } := by
  induction bytes generalizing l s with
  | nil =>
    obtain ⟨t, hexec, hemit, hframe⟩ := exec_b32eFin_of_holds hs
    refine ⟨t, (runCommands_cons hexec (runCommands_nil _ _)).trans ?_, hframe⟩
    rw [hemit, List.append_nil, bitstream, List.flatMap_nil, List.append_nil]
  | cons b bytes ih =>
    obtain ⟨u, l', groups, hexec, hu, hemit, hgroups, huframe⟩ := exec_b32eByte_of_holds hs b
    obtain ⟨t, hrun, hframe⟩ := ih hu
    refine ⟨t, (runCommands_cons hexec hrun).trans ?_, ?_⟩
    · rw [hemit, bitstream_cons, hgroups, symbolsOf, symbolsOf, symbolsOf, List.map_append]
    · rw [hframe, huframe]
      rfl

/-- The encoder's commands over a byte string, and all they change. -/
theorem run_encodeCommands (s : State) (bytes : List Byte) :
    ∃ t, runCommands emitted (encodeCommands bytes) s = some (base32Text bytes, t) ∧
      t = { finished s with eacc := 0, ecnt := 0, eoutC0 := t.eoutC0, eoutC1 := t.eoutC1, eoutN := t.eoutN } := by
  have hclear := (encoderClearAndFlush.1 s).1
  obtain ⟨t, hrun, hframe⟩ := run_encodeBytes (l := [])
    (s := { finished s with eacc := 0, ecnt := 0, eoutC0 := 0, eoutC1 := 0, eoutN := 0 }) ⟨rfl, rfl⟩ bytes
  exact ⟨t, (runCommands_cons hclear hrun).trans (by rw [base32Text_eq]; rfl), hframe⟩

/-- Settles O44: the text is the groups' symbols by `run_encodeCommands`, and there is one for each 5 bits begun. -/
theorem encodingEmitsTheBase32Text : Obligations.EncodingEmitsTheBase32Text := by
  intro s bytes
  obtain ⟨t, hrun, hframe⟩ := run_encodeCommands s bytes
  exact ⟨t, hrun, by simp [base32Text], by rw [hframe], by rw [hframe]⟩

end Sys2Proof.Machine
end

section
/-! Decoding a Base32 text gives its bytes (41_base32.md R166) and with K = 1 loads them (R160): between commands the decoder
holds the bits that fill no byte yet, and fewer than 8 bits are left at the end. -/

namespace Sys2Proof.Machine

open Sys2Proof.Claims

/-- The leftover bits of the decoder are `l`. -/
structure DecoderHolds (l : List Bool) (s : State) : Prop where
  count : s.dcnt.val = l.length
  value : s.dacc.toNat = groupValue l

theorem DecoderHolds.acc_bound {l : List Bool} {s : State} (h : DecoderHolds l s) : s.dacc.toNat < 2 ^ s.dcnt.val := by
  rw [h.count, h.value]
  exact groupValue_lt l

/-! ## What symbols change -/

/-- What the symbols of a text that give `bytes` change, the completion left out: the decoder's accumulator and result, and
with K = 1 the Secret, to which `bytes` are appended. -/
structure Decoded (k : Bool) (s t : State) (bytes : List Byte) : Prop where
  frame : finished t = { finished s with
    key := t.key, keylen := t.keylen, dacc := t.dacc, dcnt := t.dcnt, doutByte := t.doutByte, doutV := t.doutV
    doutSkip := t.doutSkip, doutPadc := t.doutPadc, doutDrop := t.doutDrop }
  unrouted : k = false → t.key = s.key ∧ t.keylen = s.keylen
  routed : k = true → secret t = secret s ++ bytes ∧ t.keylen.val = s.keylen.val + bytes.length

theorem Decoded.refl (k : Bool) (s : State) : Decoded k s s [] :=
  ⟨rfl, fun _ => ⟨rfl, rfl⟩, fun _ => ⟨(List.append_nil _).symm, rfl⟩⟩

theorem Decoded.trans {k : Bool} {s t u : State} {xs ys : List Byte} (h : Decoded k s t xs) (h' : Decoded k t u ys) :
    Decoded k s u (xs ++ ys) where
  frame := by rw [h'.frame, h.frame]
  unrouted hk := ⟨(h'.unrouted hk).1.trans (h.unrouted hk).1, (h'.unrouted hk).2.trans (h.unrouted hk).2⟩
  routed hk := by
    obtain ⟨hsecret, hlen⟩ := h.routed hk
    obtain ⟨hsecret', hlen'⟩ := h'.routed hk
    exact ⟨by rw [hsecret', hsecret, List.append_assoc], by rw [List.length_append]; omega⟩

theorem Decoded.dpad {k : Bool} {s t : State} {bytes : List Byte} (h : Decoded k s t bytes) : t.dpad = s.dpad :=
  have hpad := congrArg State.dpad h.frame
  hpad

/-! ## One symbol (R162) -/

theorem groupValue_lt_of_length {g : List Bool} (hg : g.length = 5) : groupValue g < 32 :=
  (groupValue_lt g).trans_eq (congrArg (2 ^ ·) hg)

theorem normChar_symbolCode {x : Nat} (hx : x < 32) : normChar (symbolCode x) = symbolCode x := by
  have hall : ∀ x < 32, normChar (symbolCode x) = symbolCode x := by decide
  exact hall x hx

/-- A symbol whose group completes no byte is held. -/
theorem exec_symbol_held {k : Bool} {l g : List Bool} {s : State} (hs : DecoderHolds l s) (hpad : s.dpad = false)
    (hg : g.length = 5) (hshort : (l ++ g).length < 8) :
    ∃ t, exec (.b32dChar k (symbolCode (groupValue g))) s = .next t ∧ produced t = [] ∧ DecoderHolds (l ++ g) t ∧
      Decoded k s t [] := by
  have hx : groupValue g < 32 := groupValue_lt_of_length hg
  have hlen : s.dcnt.val + 5 = (l ++ g).length := by rw [List.length_append, hg, hs.count]
  have hval : s.dacc.toNat * 32 + groupValue g = groupValue (l ++ g) := by
    rw [groupValue_append, hg, hs.value]
    rfl
  obtain ⟨hheld, -⟩ := decoderTakesOneSymbol.1 s k _ _ hs.acc_bound hx (normChar_symbolCode hx) (.inr hpad)
  obtain ⟨t, hexec, hframe, hacc, hcnt⟩ := hheld (hlen ▸ hshort)
  refine ⟨t, hexec, ?_, ⟨hcnt.trans hlen, hacc.trans hval⟩, ?_⟩
  · rw [hframe]
    rfl
  · rw [hframe]
    exact ⟨rfl, fun _ => ⟨rfl, rfl⟩, fun _ => ⟨(List.append_nil _).symm, rfl⟩⟩

/-- A symbol whose group completes a byte gives it, and the bits after it are held. -/
theorem exec_symbol_completes {k : Bool} {l g l' : List Bool} {b : Byte} {s : State} (hs : DecoderHolds l s)
    (hpad : s.dpad = false) (hg : g.length = 5) (hbyte : l ++ g = byteBits b ++ l') (hroom : k = true → s.keylen.val < 64) :
    ∃ t, exec (.b32dChar k (symbolCode (groupValue g))) s = .next t ∧ produced t = [b] ∧ DecoderHolds l' t ∧
      Decoded k s t [b] := by
  have hx : groupValue g < 32 := groupValue_lt_of_length hg
  have hlen : s.dcnt.val + 5 = 8 + l'.length := by
    rw [hs.count, ← hg, ← List.length_append, hbyte, List.length_append, byteBits_length]
  have hval : s.dacc.toNat * 32 + groupValue g = groupValue (byteBits b ++ l') := by
    rw [← hbyte, groupValue_append, hg, hs.value]
    rfl
  have hkept : s.dcnt.val + 5 - 8 = l'.length := by omega
  obtain ⟨-, hcompletes, -⟩ := decoderTakesOneSymbol.1 s k _ _ hs.acc_bound hx (normChar_symbolCode hx) (.inr hpad)
  obtain ⟨t, hexec, hframe, hacc, hcnt, hunrouted, hrouted⟩ := hcompletes (by omega) hroom
  have hb : BitVec.ofNat 8 (groupValue (byteBits b ++ l') / 2 ^ l'.length) = b := by
    rw [groupValue_append_div, groupValue_byteBits, BitVec.ofNat_toNat, BitVec.setWidth_eq]
  rw [hkept, hval, hb] at hrouted hframe
  rw [hkept, hval, groupValue_append_mod] at hacc
  refine ⟨t, hexec, ?_, ⟨hcnt.trans hkept, hacc⟩, ?_, hunrouted, fun hk => ?_⟩
  · rw [hframe]
    rfl
  · rw [hframe]
    rfl
  · obtain ⟨hcount, hkey⟩ := hrouted hk
    exact ⟨secret_eq_append (hroom hk) hcount hkey, hcount⟩

/-! ## A text (R165, R166) -/

/-- The symbols of groups that hold the bits of `bytes`, and fewer than 8 bits more, give `bytes`. -/
theorem run_decodeGroups {k : Bool} {groups : List (List Bool)} {bytes : List Byte} {l rest : List Bool} {s : State}
    (hgroups : ∀ g ∈ groups, g.length = 5) (hbits : l ++ groups.flatten = bitstream bytes ++ rest) (hrest : rest.length < 8)
    (hs : DecoderHolds l s) (hpad : s.dpad = false) (hroom : k = true → s.keylen.val + bytes.length ≤ 64) :
    ∃ t, runCommands produced ((symbolsOf groups).map (.b32dChar k)) s = some (bytes, t) ∧ Decoded k s t bytes := by
  induction groups generalizing bytes l s with
  | nil =>
    have hl : l.length < 8 := hs.count ▸ s.dcnt.isLt
    have hlen := congrArg List.length hbits
    simp only [List.flatten_nil, List.append_nil, List.length_append, bitstream_length] at hlen
    obtain rfl : bytes = [] := List.length_eq_zero_iff.1 (by omega)
    exact ⟨s, runCommands_nil _ _, Decoded.refl k s⟩
  | cons g groups ih =>
    have hg : g.length = 5 := hgroups g List.mem_cons_self
    have hrestGroups : ∀ g ∈ groups, g.length = 5 := fun g h => hgroups g (List.mem_cons_of_mem _ h)
    rw [List.flatten_cons, ← List.append_assoc] at hbits
    by_cases hshort : (l ++ g).length < 8
    · obtain ⟨u, hexec, hout, hu, hdec⟩ := exec_symbol_held (k := k) hs hpad hg hshort
      have hroom' : k = true → u.keylen.val + bytes.length ≤ 64 := fun hk => (hdec.routed hk).2 ▸ hroom hk
      obtain ⟨t, hrun, ht⟩ := ih hrestGroups hbits hu (hdec.dpad.trans hpad) hroom'
      exact ⟨t, (runCommands_cons hexec hrun).trans (by rw [hout]; rfl), hdec.trans ht⟩
    · cases bytes with
      | nil =>
        have hlen := congrArg List.length hbits
        simp only [List.length_append, bitstream_length, List.length_nil] at hlen hshort
        omega
      | cons b bytes =>
        rw [bitstream_cons, List.append_assoc (byteBits b)] at hbits
        obtain ⟨l', hbyte⟩ : byteBits b <+: l ++ g :=
          List.prefix_of_prefix_length_le ⟨_, hbits.symm⟩ ⟨_, rfl⟩ (by simpa using hshort)
        rw [← hbyte, List.append_assoc] at hbits
        rw [List.length_cons] at hroom
        obtain ⟨u, hexec, hout, hu, hdec⟩ :=
          exec_symbol_completes (k := k) hs hpad hg hbyte.symm fun hk => by have := hroom hk; omega
        have hroom' : k = true → u.keylen.val + bytes.length ≤ 64 := fun hk => by
          have hlen := (hdec.routed hk).2
          have := hroom hk
          simp only [List.length_singleton] at hlen
          omega
        obtain ⟨t, hrun, ht⟩ := ih hrestGroups (List.append_cancel_left hbits) hu (hdec.dpad.trans hpad) hroom'
        exact ⟨t, (runCommands_cons hexec hrun).trans (by rw [hout]; rfl), hdec.trans ht⟩

/-- `s` with the decoder clear and `drop` bits reported as dropped, after the completion. -/
def decoderCleared (drop : Fin 8) (s : State) : State :=
  finished (setDout none false false drop { s with dacc := 0, dcnt := 0, dpad := false })

@[simp] theorem produced_decoderCleared (drop : Fin 8) (s : State) : produced (decoderCleared drop s) = [] := rfl

theorem exec_b32dClr (s : State) : exec .b32dClr s = .next (decoderCleared 0 s) := complete_ok s _

theorem exec_b32dFin (s : State) : exec .b32dFin s = .next (decoderCleared s.dcnt s) := complete_ok s _

/-- The decoder's commands on the Base32 text of a byte string produce the string. -/
theorem run_decodeText {k : Bool} {s : State} {bytes : List Byte} (hroom : k = true → s.keylen.val + bytes.length ≤ 64) :
    ∃ t, runCommands produced (.b32dClr :: (base32Text bytes).map (.b32dChar k) ++ [.b32dFin]) s = some (bytes, t) ∧
      (k = false → t.key = s.key ∧ t.keylen = s.keylen) ∧
      (k = true → secret t = secret s ++ bytes ∧ t.keylen.val = s.keylen.val + bytes.length) ∧
      t = { finished s with
        key := t.key, keylen := t.keylen, dacc := 0, dcnt := 0, dpad := false, doutByte := 0, doutV := false
        doutSkip := false, doutPadc := false, doutDrop := t.doutDrop } := by
  obtain ⟨rest, hflat, hrest⟩ := flatten_bitGroups (bitstream bytes)
  obtain ⟨u, hrun, hu⟩ := run_decodeGroups (k := k) (l := []) (s := decoderCleared 0 s)
    (fun _ => length_of_mem_bitGroups) hflat (hrest.trans (by decide)) ⟨rfl, rfl⟩ rfl hroom
  refine ⟨decoderCleared u.dcnt u, ?run, hu.unrouted, hu.routed, ?frame⟩
  case run =>
    have hall := runCommands_append (runCommands_cons (exec_b32dClr s) hrun)
      (runCommands_cons (exec_b32dFin u) (runCommands_nil produced _))
    simpa [base32Text_eq] using hall
  case frame =>
    have hfinished : decoderCleared u.dcnt u = decoderCleared u.dcnt (finished u) := rfl
    rw [hfinished, hu.frame]
    rfl

/-- Settles O51: the emitted text is the Base32 text (`run_encodeCommands`), which decodes to the string. -/
theorem decodingUndoesEncoding : Obligations.DecodingUndoesEncoding := by
  intro s bytes text t hencode
  obtain ⟨t', hencode', hframe⟩ := run_encodeCommands s bytes
  obtain ⟨rfl, rfl⟩ := Prod.mk.inj (Option.some.inj (hencode'.symm.trans hencode))
  obtain ⟨u, hdecode, hkey, -, huframe⟩ := run_decodeText (k := false) (s := t') (bytes := bytes) nofun
  refine ⟨u, hdecode, ?_⟩
  obtain ⟨hkey, hlen⟩ := hkey rfl
  rw [hkey, hlen, hframe] at huframe
  rw [huframe]
  rfl

/-! ## Loading a text (R160, R104) -/

/-- What a run is seen to give does not change what it does. -/
theorem runCommands_unseen {view : State → List Byte} {is : List Instr} {s t : State} {out : List Byte}
    (h : runCommands view is s = some (out, t)) : runCommands (fun _ => []) is s = some ([], t) := by
  induction is generalizing s out with
  | nil =>
    obtain ⟨-, rfl⟩ := Prod.mk.inj (Option.some.inj h)
    rfl
  | cons i is ih =>
    obtain ⟨v, hv⟩ := exec_next i s
    simp only [runCommands, hv, Option.map_eq_some_iff] at h
    obtain ⟨⟨mid, w⟩, hmid, heq⟩ := h
    obtain ⟨-, rfl⟩ := Prod.mk.inj heq
    exact runCommands_cons hv (ih hmid)

/-- Settles O52: KEY_CLR empties the Secret, and the text's bytes are appended to it. -/
theorem textLoadsTheKey : Obligations.TextLoadsTheKey := by
  intro s bytes hfit
  obtain ⟨t, hrun, -, hsecret, hframe⟩ := run_decodeText (k := true)
    (s := finished { s with key := Vector.replicate 64 0, keylen := 0 }) (bytes := bytes)
    fun _ => (Nat.zero_add _).trans_le hfit
  obtain ⟨hsecret, hlen⟩ := hsecret rfl
  obtain ⟨-, -, -, -, hexpand, -⟩ := pseudoInstructionsExpand
  refine ⟨t, ?_, hlen.trans (Nat.zero_add _), hsecret, by rw [hframe]; rfl⟩
  rw [hexpand, commandsOf_map_cmd]
  exact runCommands_cons (exec_keyClr s) (runCommands_unseen hrun)

end Sys2Proof.Machine
end
